-- ==== Sys2Proof/Word.lean ====
section
/-! DEFINITION. The word types of FIBCORE: the host word (00_scope.md R8), the port's word address
(20_memory.md R50), the limb and the big number (00_scope.md R11), the register number. -/

namespace Sys2Proof

/-- A host data word: WORD = 32 bits (R8). -/
abbrev Word := BitVec 32

/-- `haddr`: a word address of the host port, byte address bits [11:2] (R50). -/
abbrev PortAddr := BitVec 10

/-- A stored limb: LIMB_W = 27 bits (R8). -/
abbrev Limb := BitVec 27

/-- A FixedBigNumber: exactly N = 8 limbs, limb 0 least significant (R11, R21). -/
abbrev BigNum := Vector Limb 8

/-- The number of a big register, R0 to R3 (R21). -/
abbrev RegId := Fin 4

/-- The number of a limb in a big number (R11). -/
abbrev LimbId := Fin 8

end Sys2Proof
end

