-- ==== Sys2Proof/Config.lean ====
section
/-! DEFINITION. What a build of FIBCORE fixes (00_scope.md R7, R8), the values of its open
parameter SUB_UNDERFLOW_POLICY (R9), and the one free value of the model, the drawn number. -/

namespace Sys2Proof

/-- The two settings of the open parameter SUB_UNDERFLOW_POLICY (R9, R97). -/
inductive UnderflowPolicy where
  /-- The result of an underflowing subtraction is any canonical big number. -/
  | draw
  /-- It is the datapath's value, `val(X) - val(Y) + M`. -/
  | wrap
  deriving DecidableEq, Repr

namespace Config

/-- N, limbs per number (R7). -/
abbrev numLimbs : Nat := 8

/-- BASE, the limb radix, 10^8 (R7). -/
abbrev base : Nat := 100000000

/-- D, decimal digits per limb (R7). -/
abbrev digits : Nat := 8

/-- NREG, host big registers (R8). -/
abbrev numRegs : Nat := 4

/-- The command-set version that ID reports (R3, R31). -/
abbrev version : Nat := 1

/-- M, the modulus of truncation, BASE^N = 10^64 (R7). -/
abbrev modulus : Nat := 10 ^ 64

/-- FREE VALUE (log 5). The number whose canonical form is the `n`-th value that `draw Canon` gives
(R13, R97). It has no body: nothing constrains it. -/
opaque drawnNumber : Nat → Nat

end Config

end Sys2Proof
end

