-- ==== Sys2Proof/Syntax.lean ====
section
/-! DEFINITION. The seven commands of FIBCORE-CMD version 1 (30_encoding.md R72): one constructor
per row of spec/opcode_table.json. -/

namespace Sys2Proof

/-- A command, with the big registers its fields name. FIB's operand k is not in the word (R77). -/
inductive Instr where
  /-- `ADD RD, RS1, RS2` (R111). -/
  | add (rd rs1 rs2 : RegId)
  /-- `SUB RD, RS1, RS2` (R112). -/
  | sub (rd rs1 rs2 : RegId)
  /-- `MUL RD, RS1, RS2` (R113). -/
  | mul (rd rs1 rs2 : RegId)
  /-- `COPY RD, RS1` (R114). -/
  | copy (rd rs1 : RegId)
  /-- `CMPEQ RS1, RS2` (R115). -/
  | cmpeq (rs1 rs2 : RegId)
  /-- `ISZERO RS1` (R116). -/
  | iszero (rs1 : RegId)
  /-- `FIB RD` (R131). -/
  | fib (rd : RegId)
  deriving DecidableEq, Repr

end Sys2Proof
end

