-- ==== Sys2Proof/WellFormed.lean ====
section
/-! DEFINITION. The raw fields of a command word (30_encoding.md R71) and the check that they are a
command: a legal opcode and every field that must be 0 equal to 0 (R72, R74). A term of `Instr`
is well formed by its type: its register fields are numbers below NREG and it has no other field. -/

namespace Sys2Proof

/-- The fields of a CMD32 word (R71). -/
structure CmdFields where
  op : BitVec 4
  rd : RegId
  rs1 : RegId
  rs2 : RegId
  rsv : BitVec 22
  deriving DecidableEq, Repr

/-- RSV must be 0 in every command (R72). -/
def CmdFields.reservedZero (f : CmdFields) : Bool := f.rsv = 0#22

/-- OP names a command: 0x1 to 0x7 (R72). -/
def CmdFields.opcodeLegal (f : CmdFields) : Bool := 1 ≤ f.op.toNat ∧ f.op.toNat ≤ 7

/-- RD must be 0 in CMPEQ and ISZERO (R72). -/
def CmdFields.rdLegal (f : CmdFields) : Bool := f.op = 5#4 ∨ f.op = 6#4 → f.rd = 0

/-- RS1 must be 0 in FIB (R72). -/
def CmdFields.rs1Legal (f : CmdFields) : Bool := f.op = 7#4 → f.rs1 = 0

/-- RS2 must be 0 in COPY, ISZERO and FIB (R72). -/
def CmdFields.rs2Legal (f : CmdFields) : Bool := f.op = 4#4 ∨ f.op = 6#4 ∨ f.op = 7#4 → f.rs2 = 0

/-- The fields are those of a legal command word (R74). -/
def CmdFields.wellFormed (f : CmdFields) : Bool :=
  f.reservedZero && f.opcodeLegal && f.rdLegal && f.rs1Legal && f.rs2Legal

/-- The registers an instruction names. -/
def Instr.regs : Instr → List RegId
  | .add rd rs1 rs2 => [rd, rs1, rs2]
  | .sub rd rs1 rs2 => [rd, rs1, rs2]
  | .mul rd rs1 rs2 => [rd, rs1, rs2]
  | .copy rd rs1 => [rd, rs1]
  | .cmpeq rs1 rs2 => [rs1, rs2]
  | .iszero rs1 => [rs1]
  | .fib rd => [rd]

/-- Every register an instruction names exists (R77). -/
def Instr.wellFormed (i : Instr) : Bool := i.regs.all fun r => r.val < Config.numRegs

end Sys2Proof
end

