-- ==== Sys2Proof/Decode.lean ====
section
/-! DEFINITION. The command decoder of 30_encoding.md R76, total on every 32-bit word (R75), and the
encoder of R71. The port carries whole words and no byte order within one can be seen (R58), so a
command is decoded from its word. -/

namespace Sys2Proof

/-- Why a command word is illegal (R74); each is reported as ERR = ILLEGAL. -/
inductive DecodeError where
  /-- RSV is not 0. -/
  | reservedBits
  /-- OP is 0x0 or 0x8 to 0xF. -/
  | illegalOpcode
  /-- RD is not 0 in a command that has no RD. -/
  | rdNotZero
  /-- RS1 is not 0 in a command that has no RS1. -/
  | rs1NotZero
  /-- RS2 is not 0 in a command that has no RS2. -/
  | rs2NotZero
  deriving DecidableEq, Repr

/-- The two-bit register field of `w` whose lowest bit is `lo` (R71, R77). -/
def regField (w : Word) (lo : Nat) : RegId := Fin.ofNat 4 (w.extractLsb' lo 2).toNat

/-- The fields of a command word (R71). -/
def splitWord (w : Word) : CmdFields where
  op := w.extractLsb' 0 4
  rd := regField w 4
  rs1 := regField w 6
  rs2 := regField w 8
  rsv := w.extractLsb' 10 22

/-- The case analysis of R76 on the opcode and the register fields. -/
def decodeFields (op : BitVec 4) (rd rs1 rs2 : RegId) : Except DecodeError Instr :=
  match op.toNat with
  | 1 => .ok (.add rd rs1 rs2)
  | 2 => .ok (.sub rd rs1 rs2)
  | 3 => .ok (.mul rd rs1 rs2)
  | 4 => if rs2 ≠ 0 then .error .rs2NotZero else .ok (.copy rd rs1)
  | 5 => if rd ≠ 0 then .error .rdNotZero else .ok (.cmpeq rs1 rs2)
  | 6 =>
    if rd ≠ 0 then .error .rdNotZero
    else if rs2 ≠ 0 then .error .rs2NotZero
    else .ok (.iszero rs1)
  | 7 =>
    if rs1 ≠ 0 then .error .rs1NotZero
    else if rs2 ≠ 0 then .error .rs2NotZero
    else .ok (.fib rd)
  | _ => .error .illegalOpcode

/-- The decoder that a CMD write runs (R76). -/
def decode (w : Word) : Except DecodeError Instr :=
  let f := splitWord w
  if f.rsv ≠ 0#22 then .error .reservedBits else decodeFields f.op f.rd f.rs1 f.rs2

/-- The decoder on a row of the opcode table: every row is one 32-bit word (R70). -/
def decodeTableWord (nbits w : Nat) : Option Instr :=
  match decode (BitVec.ofNat 32 (w % 2 ^ nbits)) with
  | .ok i => some i
  | .error _ => none

/-- OP of each command (R72). -/
def Instr.opcode : Instr → BitVec 4
  | .add .. => 1#4
  | .sub .. => 2#4
  | .mul .. => 3#4
  | .copy .. => 4#4
  | .cmpeq .. => 5#4
  | .iszero .. => 6#4
  | .fib .. => 7#4

/-- The RD field of each command, 0 where it has none (R72). -/
def Instr.rdField : Instr → RegId
  | .add rd _ _ => rd
  | .sub rd _ _ => rd
  | .mul rd _ _ => rd
  | .copy rd _ => rd
  | .cmpeq _ _ => 0
  | .iszero _ => 0
  | .fib rd => rd

/-- The RS1 field of each command, 0 where it has none (R72). -/
def Instr.rs1Field : Instr → RegId
  | .add _ rs1 _ => rs1
  | .sub _ rs1 _ => rs1
  | .mul _ rs1 _ => rs1
  | .copy _ rs1 => rs1
  | .cmpeq rs1 _ => rs1
  | .iszero rs1 => rs1
  | .fib _ => 0

/-- The RS2 field of each command, 0 where it has none (R72). -/
def Instr.rs2Field : Instr → RegId
  | .add _ _ rs2 => rs2
  | .sub _ _ rs2 => rs2
  | .mul _ _ rs2 => rs2
  | .copy _ _ => 0
  | .cmpeq _ rs2 => rs2
  | .iszero _ => 0
  | .fib _ => 0

/-- `w = OP | (RD << 4) | (RS1 << 6) | (RS2 << 8)` (R71). -/
def assembleWord (op : BitVec 4) (rd rs1 rs2 : RegId) : Word :=
  op.setWidth 32 ||| (BitVec.ofNat 32 rd.val <<< 4) ||| (BitVec.ofNat 32 rs1.val <<< 6) |||
    (BitVec.ofNat 32 rs2.val <<< 8)

/-- The encoder (R71, R72). -/
def encode (i : Instr) : Word := assembleWord i.opcode i.rdField i.rs1Field i.rs2Field

/-- One row of the match and mask table (R73). -/
structure OpcodeRow where
  mnemonic : String
  matchWord : Word
  mask : Word
  deriving DecidableEq, Repr

/-- The match and mask table (R73). -/
def opcodeRows : List OpcodeRow :=
  [⟨"ADD", 0x00000001, 0xFFFFFC0F⟩, ⟨"SUB", 0x00000002, 0xFFFFFC0F⟩, ⟨"MUL", 0x00000003, 0xFFFFFC0F⟩,
   ⟨"COPY", 0x00000004, 0xFFFFFF0F⟩, ⟨"CMPEQ", 0x00000005, 0xFFFFFC3F⟩,
   ⟨"ISZERO", 0x00000006, 0xFFFFFF3F⟩, ⟨"FIB", 0x00000007, 0xFFFFFFCF⟩]

/-- The row of R73 a command belongs to. -/
def Instr.row : Instr → OpcodeRow
  | .add .. => ⟨"ADD", 0x00000001, 0xFFFFFC0F⟩
  | .sub .. => ⟨"SUB", 0x00000002, 0xFFFFFC0F⟩
  | .mul .. => ⟨"MUL", 0x00000003, 0xFFFFFC0F⟩
  | .copy .. => ⟨"COPY", 0x00000004, 0xFFFFFF0F⟩
  | .cmpeq .. => ⟨"CMPEQ", 0x00000005, 0xFFFFFC3F⟩
  | .iszero .. => ⟨"ISZERO", 0x00000006, 0xFFFFFF3F⟩
  | .fib .. => ⟨"FIB", 0x00000007, 0xFFFFFFCF⟩

/-- The word `w` is the command of the row (R73). -/
def OpcodeRow.admits (row : OpcodeRow) (w : Word) : Bool := w &&& row.mask = row.matchWord

end Sys2Proof
end

