-- ==== Sys2Proof/Machine/BigNumber.lean ====
section
/-! DEFINITION. Big numbers (00_scope.md R11): the value a limb list denotes, the canonical form, the
canonical big number of a value, and the constants ZERO, ONE and TWO. -/

namespace Sys2Proof

/-- The value of a list of digits in radix BASE, the first least significant (R11). -/
def digitsVal : List Nat → Nat
  | [] => 0
  | x :: xs => x + Config.base * digitsVal xs

/-- The limbs of a big number as numbers, limb 0 first. -/
def BigNum.nats (X : BigNum) : List Nat := X.toList.map BitVec.toNat

/-- `val(X)`, the sum of `X[i] * BASE^i` (R11). -/
def BigNum.val (X : BigNum) : Nat := digitsVal X.nats

/-- `Canon(X)`: every limb lies in [0, BASE) (R11). -/
abbrev BigNum.Canon (X : BigNum) : Prop := ∀ i : LimbId, (X[i.val]).toNat < Config.base

/-- `big(v)`: limb `i` is `(v div BASE^i) mod BASE` (R11). -/
def big (v : Nat) : BigNum :=
  Vector.ofFn fun i : LimbId => BitVec.ofNat 27 (v / Config.base ^ i.val % Config.base)

/-- The big number whose limbs are the first N numbers of a list; limbs past its end are 0. -/
def BigNum.ofNats (l : List Nat) : BigNum :=
  Vector.ofFn fun i : LimbId => BitVec.ofNat 27 (l.getD i.val 0)

/-- ZERO (R11). -/
def zeroBig : BigNum := big 0

/-- ONE (R11). -/
def oneBig : BigNum := big 1

/-- TWO, the sequencer's constant multiplier operand (R11, R41). -/
def twoBig : BigNum := big 2

/-- The `n`-th value of `draw Canon`: an arbitrary canonical big number (R13, R97; log 5). -/
def drawnBig (n : Nat) : BigNum := big (Config.drawnNumber n)

/-- A digit group of a limb as printed: exactly 8 decimal digits (R58). -/
def limbDigits (n : Nat) : List Char :=
  let d := Nat.toDigits 10 n
  List.replicate (Config.digits - d.length) '0' ++ d

/-- The source's external form (R58): most significant nonzero limb first, without leading zeros,
every further limb as 8 digits. R58 does not say how a number with no nonzero limb is printed: here as the
one digit 0 (DESIGN CHOICE, log 15). -/
def BigNum.printed (X : BigNum) : List Char :=
  match X.nats.reverse.dropWhile (· = 0) with
  | [] => ['0']
  | top :: rest => Nat.toDigits 10 top ++ rest.flatMap limbDigits

end Sys2Proof
end

