-- ==== Sys2Proof/Machine/State.lean ====
section
/-! DEFINITION. The state of FIBCORE and its host as plain data (10_state.md), the reasons a step
can stop, and the state after reset (70_reset_and_hazards.md R181). -/

namespace Sys2Proof.Machine

/-- Why a step stops with a fault. -/
inductive Fault where
  /-- Raised by `step` when a command in flight is due to commit and the latched OPL and register
  fields are no command of R73. No run from reset reaches it: accept latches only words that the
  decoder accepts. SAFE (log 8). -/
  | illegalLatch
  deriving DecidableEq, Repr

/-- Why an instruction has no meaning. -/
inductive Refusal where
  /-- The instruction has no meaning yet. No arm of `exec` answers it. SAFE. -/
  | notModelled (mnemonic : String)
  deriving DecidableEq, Repr

/-- The FSM states of SEQ and of the single-step commands (R42, R137). -/
inductive SeqState where
  | idle | exec | fInit | fMul2 | fSub | fMulD | fSqL | fSqH | fAddS | fAdv | fNext | commit
  deriving DecidableEq, Repr

/-- The values of STATUS.ERR (R37, R161). -/
inductive ErrCode where
  | none | illegal | busy | range | addr
  deriving DecidableEq, Repr

/-- One bus operation of the host's program. -/
inductive HostOp where
  /-- A cycle with no transaction (`hsel = 0`). -/
  | idle
  /-- `RD a`: one `HostRead` (R78). -/
  | read (a : PortAddr)
  /-- `WR a, w`: one `HostWrite` (R78). -/
  | write (a : PortAddr) (w : Word)
  /-- `WAIT`: read STATUS, again as long as it returns BUSY = 1 (R79). -/
  | wait
  deriving DecidableEq, Repr

/-- What the core does in a cycle that starts with BUSY = 1: the open latency (R190; log 3). -/
inductive CoreMove where
  /-- The command stays in flight; the FSM makes up to this many transitions. -/
  | work (transitions : Nat)
  /-- The cycle ends with the command's commit. -/
  | finish
  deriving DecidableEq, Repr

/-- What the environment chooses for one clock cycle: the level of `rst` and the core's move. -/
structure EnvCycle where
  rst : Bool
  core : CoreMove
  deriving DecidableEq, Repr

/-- The machine's state. -/
structure State where
  /-- The big-register file R0 to R3 (R21). -/
  regs : Vector BigNum 4
  /-- STATUS.BUSY (R34). -/
  busy : Bool
  /-- STATUS.DONE (R35). -/
  done : Bool
  /-- STATUS.EQ (R36). -/
  eq : Bool
  /-- STATUS.ERR (R37). -/
  err : ErrCode
  /-- K = K_HI, K_LO (R39). -/
  k : BitVec 64
  /-- SSTATE (R42). -/
  sstate : SeqState
  /-- OPL, the latched opcode (R43). -/
  opl : BitVec 4
  /-- RDL, the latched destination (R42). -/
  rdl : RegId
  /-- The latched RS1 field of the accepted command word (R32, R43; log 7). -/
  rs1l : RegId
  /-- The latched RS2 field of the accepted command word (R32, R43; log 7). -/
  rs2l : RegId
  /-- KL, the copy of K latched at FIB's accept (R42). -/
  kl : BitVec 64
  /-- P, the index of the bit of KL being consumed (R42). -/
  p : BitVec 6
  /-- LOW, F(n) during a round (R41). -/
  low : BigNum
  /-- HIGH, F(n+1) during a round (R41). -/
  high : BigNum
  /-- T1 (R41). -/
  t1 : BigNum
  /-- T2 (R41). -/
  t2 : BigNum
  /-- F2N (R41). -/
  f2n : BigNum
  /-- SQL (R41). -/
  sql : BigNum
  /-- SQH (R41). -/
  sqh : BigNum
  /-- F2N1 (R41). -/
  f2n1 : BigNum
  /-- `hrdata` of the cycle just ended, if it was a read (R50; log 10). -/
  hrdata : Option Word
  /-- MODEL'S OWN: the build's SUB_UNDERFLOW_POLICY (R9; log 4). -/
  policy : UnderflowPolicy
  /-- MODEL'S OWN: how many values have been drawn (R13, R97; log 5). -/
  draws : Nat
  /-- MODEL'S OWN: the host's remaining bus operations, next first (log 2). -/
  host : List HostOp
  /-- MODEL'S OWN: the environment's choices for the coming cycles, next first (log 2, log 3). -/
  env : List EnvCycle
  /-- MODEL'S OWN: the words the host's reads returned, newest first (R78; log 10). -/
  reads : List Word
  deriving DecidableEq, Repr

/-- The machine right after reset (R181). The working registers, KL, P, OPL, RDL and the latched
source fields have no reset value in the spec: 0 here (DESIGN CHOICE, log 6). -/
def State.reset : State where
  regs := Vector.replicate 4 zeroBig
  busy := false
  done := false
  eq := false
  err := .none
  k := 0
  sstate := .idle
  opl := 0
  rdl := 0
  rs1l := 0
  rs2l := 0
  kl := 0
  p := 0
  low := zeroBig
  high := zeroBig
  t1 := zeroBig
  t2 := zeroBig
  f2n := zeroBig
  sql := zeroBig
  sqh := zeroBig
  f2n1 := zeroBig
  hrdata := none
  policy := .draw
  draws := 0
  host := []
  env := []
  reads := []

end Sys2Proof.Machine
end

