-- ==== Sys2Proof/Machine/Operands.lean ====
section
/-! DEFINITION. The operand forms of the commands (30_encoding.md R77): big registers by number, one
limb of a register, the halves of K, and the fields of an accepted command word. -/

namespace Sys2Proof.Machine

/-- `R[r]` (R13). -/
def State.reg (s : State) (r : RegId) : BigNum := s.regs[r.val]

/-- `R[r] <- X` (R13). No register is hard-wired (R23). -/
def State.setReg (s : State) (r : RegId) (X : BigNum) : State :=
  { s with regs := s.regs.set r.val X }

/-- Limb `i` of `R[r]` (R53). -/
def State.limb (s : State) (r : RegId) (i : LimbId) : Limb := (s.reg r)[i.val]

/-- `R[r][i] <- x` (R55). -/
def State.setLimb (s : State) (r : RegId) (i : LimbId) (x : Limb) : State :=
  s.setReg r ((s.reg r).set i.val x)

/-- K_LO, `K[31:0]` (R39). -/
def State.kLo (s : State) : Word := s.k.extractLsb' 0 32

/-- K_HI, `K[63:32]` (R39). -/
def State.kHi (s : State) : Word := s.k.extractLsb' 32 32

/-- `K[31:0] <- w` (R52). -/
def State.setKLo (s : State) (w : Word) : State := { s with k := s.kHi ++ w }

/-- `K[63:32] <- w` (R52). -/
def State.setKHi (s : State) (w : Word) : State := { s with k := w ++ s.kLo }

/-- The command in flight, from the latched fields of its word (R43). -/
def State.inflight (s : State) : Except DecodeError Instr :=
  decodeFields s.opl s.rdl s.rs1l s.rs2l

end Sys2Proof.Machine
end

