-- ==== Sys2Proof/Machine/Units.lean ====
section
/-! DEFINITION. The datapath units of 40_fixedbignumber.md Part 1: ADDU, SUBU, MULU and the
comparator. The chains run over limb lists, limb 0 first (R12). -/

namespace Sys2Proof

/-- The carry chain (R91): `c` is the carry into the first limb; the last carry out is dropped. -/
def addChain : Nat → List Nat → List Nat → List Nat
  | c, x :: xs, y :: ys =>
    ((c + x + y) % Config.base) :: addChain ((c + x + y) / Config.base) xs ys
  | _, _, _ => []

/-- ADDU (R91). -/
def addu (X Y : BigNum) : BigNum := BigNum.ofNats (addChain 0 X.nats Y.nats)

/-- The borrow chain (R93): `b` is the borrow into the first limb; the last borrow is dropped. -/
def subChain : Nat → List Nat → List Nat → List Nat
  | b, x :: xs, y :: ys =>
    if x < y + b then (x + Config.base - (y + b)) :: subChain 1 xs ys
    else (x - (y + b)) :: subChain 0 xs ys
  | _, _, _ => []

/-- SUBU_dp, the subtractor's datapath (R93). -/
def subuDp (X Y : BigNum) : BigNum := BigNum.ofNats (subChain 0 X.nats Y.nats)

/-- The borrow out of the last limb that the datapath drops (R94); no state records it (R40). -/
def borrowOut : Nat → List Nat → List Nat → Nat
  | b, x :: xs, y :: ys => borrowOut (if x < y + b then 1 else 0) xs ys
  | b, _, _ => b

/-- The minuend is smaller than the subtrahend (R95, R96). -/
def underflows (X Y : BigNum) : Bool := X.val < Y.val

/-- SUB_UNDERFLOW (R97): with `n` values drawn so far, the result and how many are drawn after. -/
def subUnderflow (policy : UnderflowPolicy) (n : Nat) (X Y : BigNum) : BigNum × Nat :=
  match policy with
  | .draw => (drawnBig n, n + 1)
  | .wrap => (subuDp X Y, n)

/-- SUBU (R96), exact where it does not underflow; the count of drawn values is threaded through. -/
def subu (policy : UnderflowPolicy) (n : Nat) (X Y : BigNum) : BigNum × Nat :=
  if underflows X Y then subUnderflow policy n X Y else (subuDp X Y, n)

/-- One row of the multiplier (R98): adds `x` times `ys` into `zs`, which holds the positions from
the row's own up to N-1; it ends where `zs` ends, so nothing at or past limb N is formed (R99). -/
def mulRow (x : Nat) : Nat → List Nat → List Nat → List Nat
  | c, z :: zs, y :: ys =>
    ((z + x * y + c) % Config.base) :: mulRow x ((z + x * y + c) / Config.base) zs ys
  | _, _, _ => []

/-- The rows of the multiplier (R98): row `i` settles position `i`, the next rows work above it. -/
def mulRows (ys : List Nat) : List Nat → List Nat → List Nat
  | x :: xs, zs =>
    match mulRow x 0 zs ys with
    | [] => []
    | z :: rest => z :: mulRows ys xs rest
  | [], _ => []

/-- MULU (R98). -/
def mulu (X Y : BigNum) : BigNum :=
  BigNum.ofNats (mulRows Y.nats X.nats (List.replicate Config.numLimbs 0))

/-- The accumulator values one row forms (R98, R100). -/
def rowAccumulators (x : Nat) : Nat → List Nat → List Nat → List Nat
  | c, z :: zs, y :: ys =>
    (z + x * y + c) :: rowAccumulators x ((z + x * y + c) / Config.base) zs ys
  | _, _, _ => []

/-- The accumulator values the rows form, in the order of the schedule (R98, R100). -/
def rowsAccumulators (ys : List Nat) : List Nat → List Nat → List Nat
  | x :: xs, zs => rowAccumulators x 0 zs ys ++ rowsAccumulators ys xs (mulRow x 0 zs ys).tail
  | [], _ => []

/-- Every value MULU's accumulator takes (R98, R100). -/
def muluAccumulators (X Y : BigNum) : List Nat :=
  rowsAccumulators Y.nats X.nats (List.replicate Config.numLimbs 0)

/-- EQU, the limb-wise equality comparator (R103). -/
def equ (X Y : BigNum) : Bool := (List.finRange Config.numLimbs).all fun i => X[i.val]'i.isLt = Y[i.val]'i.isLt

/-- ZDET, the zero detector (R103). -/
def zdet (X : BigNum) : Bool := equ X zeroBig

end Sys2Proof
end

