-- ==== Sys2Proof/Machine/Flags.lean ====
section
/-! DEFINITION. The status word and the one flag a command writes (10_state.md R33, R36, R40), the
error codes (60_exceptions.md R161) and the constant ID (R31). -/

namespace Sys2Proof.Machine

/-- The 4-bit code of an error (R161). -/
def ErrCode.code : ErrCode → BitVec 4
  | .none => 0
  | .illegal => 1
  | .busy => 2
  | .range => 3
  | .addr => 4

/-- STATUS as the host reads it (R33): ERR in [7:4], bit 3 and [31:8] read 0. -/
def State.statusWord (s : State) : Word :=
  (0 : BitVec 24) ++ s.err.code ++ (0 : BitVec 1) ++ BitVec.ofBool s.eq ++ BitVec.ofBool s.done ++
    BitVec.ofBool s.busy

/-- ID (R31): VERSION, NREG, DIGITS, NLIMB. -/
def idWord : Word :=
  BitVec.ofNat 8 Config.version ++ BitVec.ofNat 8 Config.numRegs ++ BitVec.ofNat 8 Config.digits ++
    BitVec.ofNat 8 Config.numLimbs

/-- `STATUS.EQ <- b` (R36). -/
def State.setEq (s : State) (b : Bool) : State := { s with eq := b }

end Sys2Proof.Machine
end

