-- ==== Sys2Proof/Machine/Ops.lean ====
section
/-! DEFINITION. The shared operations of the machine: reporting a refused write and clearing the
report, which are the whole of error entry and exit (60_exceptions.md R163, R165, R168), and the
accept and commit of a command (40_fixedbignumber.md R110). -/

namespace Sys2Proof.Machine

/-- What an instruction's meaning and a step answer. -/
abbrev Result := Host.Outcome State Fault Refusal

/-- `raise HostError(code)` (R163): the first error since the last clear is kept. -/
def State.raise (s : State) (code : ErrCode) : State :=
  if s.err = .none then { s with err := code } else s

/-- A write to STATUS clears ERR and changes nothing else (R165). -/
def State.clearErr (s : State) : State := { s with err := .none }

/-- `accept(op, rd, rs1, rs2)` (R110): the FSM leaves IDLE (R137), and FIB latches K (R131). -/
def State.accept (s : State) (op : BitVec 4) (rd rs1 rs2 : RegId) : State :=
  { s with
    busy := true
    done := false
    opl := op
    rdl := rd
    rs1l := rs1
    rs2l := rs2
    kl := if op = 7#4 then s.k else s.kl
    sstate := if op = 7#4 then .fInit else .exec }

/-- The accept of a command word (R76). -/
def State.acceptWord (s : State) (w : Word) : State :=
  let f := splitWord w
  s.accept f.op f.rd f.rs1 f.rs2

/-- The end of every command: `BUSY <- 0; DONE <- 1` at the edge of its write (R110), and the FSM
goes back to IDLE (R137). -/
def State.commit (s : State) : State :=
  { s with busy := false, done := true, sstate := .idle }

/-- The commit of a command that writes a big register (R110). -/
def State.commitReg (s : State) (rd : RegId) (X : BigNum) : State := (s.setReg rd X).commit

/-- The commit of a command that writes STATUS.EQ (R115, R116). -/
def State.commitEq (s : State) (b : Bool) : State := (s.setEq b).commit

end Sys2Proof.Machine
end

