-- ==== Sys2Proof/Machine/Port.lean ====
section
/-! DEFINITION. The host register port (20_memory.md): the address map, what a read returns and what
a write does, with the order of the error causes of 60_exceptions.md R164. -/

namespace Sys2Proof.Machine

/-- What a word of the 4 KiB window is (R52). -/
inductive Target where
  | id | cmd | status | kLo | kHi
  | limb (r : RegId) (i : LimbId)
  | reserved
  deriving DecidableEq, Repr

/-- The byte address of a word address, `haddr` followed by two 0 bits (R50). -/
def byteAddr (a : PortAddr) : Nat := 4 * a.toNat

/-- The word address of a byte address of the window (R50). -/
def portAddr (b : Nat) : PortAddr := BitVec.ofNat 10 (b / 4)

/-- The port address of a limb (R53). -/
def limbAddr (r : RegId) (i : LimbId) : PortAddr := portAddr (0x100 + 0x20 * r.val + 4 * i.val)

/-- CMD (R52). -/
def cmdAddr : PortAddr := portAddr 0x004

/-- STATUS (R52). -/
def statusAddr : PortAddr := portAddr 0x008

/-- K_LO (R52). -/
def kLoAddr : PortAddr := portAddr 0x010

/-- K_HI (R52). -/
def kHiAddr : PortAddr := portAddr 0x014

/-- The address map (R52); `a[11:7] = 00010` selects the limb window, `a[6:5]` the register and
`a[4:2]` the limb (R53). -/
def target (a : PortAddr) : Target :=
  let b := byteAddr a
  if b = 0x000 then .id
  else if b = 0x004 then .cmd
  else if b = 0x008 then .status
  else if b = 0x010 then .kLo
  else if b = 0x014 then .kHi
  else if b / 0x80 = 2 then .limb (Fin.ofNat 4 (b / 0x20)) (Fin.ofNat 8 (b / 4))
  else .reserved

/-- `HostRead(a)` (R52, R54, R56): no read has a side effect (R57). -/
def State.portRead (s : State) (a : PortAddr) : Word :=
  match target a with
  | .id => idWord
  | .cmd => 0
  | .status => s.statusWord
  | .kLo => s.kLo
  | .kHi => s.kHi
  | .limb r i => (s.limb r i).setWidth 32
  | .reserved => 0

/-- A write to CMD (R76). -/
def State.writeCmd (s : State) (w : Word) : State :=
  if s.busy then s.raise .busy
  else match decode w with
    | .ok _ => s.acceptWord w
    | .error _ => s.raise .illegal

/-- A write to a limb (R55). -/
def State.writeLimb (s : State) (r : RegId) (i : LimbId) (w : Word) : State :=
  if s.busy then s.raise .busy
  else if Config.base ≤ w.toNat then s.raise .range
  else s.setLimb r i (w.setWidth 27)

/-- A write to K_LO (R39). -/
def State.writeKLo (s : State) (w : Word) : State := if s.busy then s.raise .busy else s.setKLo w

/-- A write to K_HI (R39). -/
def State.writeKHi (s : State) (w : Word) : State := if s.busy then s.raise .busy else s.setKHi w

/-- `HostWrite(a, w)` (R52): ADDR before BUSY before ILLEGAL or RANGE (R164). -/
def State.portWrite (s : State) (a : PortAddr) (w : Word) : State :=
  match target a with
  | .id => s.raise .addr
  | .cmd => s.writeCmd w
  | .status => s.clearErr
  | .kLo => s.writeKLo w
  | .kHi => s.writeKHi w
  | .limb r i => s.writeLimb r i w
  | .reserved => s.raise .addr

end Sys2Proof.Machine
end

