-- ==== Sys2Proof/Machine/Sequencer.lean ====
section
/-! DEFINITION. The sequencer SEQ (41_fast_doubling.md): its FSM, one transition at a time (R137),
and SEQ_RESULT, the same computation as a function of k (R132 to R136). -/

namespace Sys2Proof.Machine

/-- The 4-bit code of an FSM state (R137). -/
def SeqState.code : SeqState → BitVec 4
  | .idle => 0
  | .exec => 1
  | .fInit => 2
  | .fMul2 => 3
  | .fSub => 4
  | .fMulD => 5
  | .fSqL => 6
  | .fSqH => 7
  | .fAddS => 8
  | .fAdv => 9
  | .fNext => 10
  | .commit => 11

/-- The position of the highest set bit of a nonzero k (R133). -/
def topBit (k : BitVec 64) : Nat := k.toNat.log2

/-- F_INIT (R132, R133, R137). -/
def State.seqInit (s : State) : State :=
  if s.kl = 0#64 then { s with low := zeroBig, sstate := .commit }
  else { s with low := zeroBig, high := oneBig, p := BitVec.ofNat 6 (topBit s.kl), sstate := .fMul2 }

/-- F_SUB: `T2 <- SUBU(T1, LOW)` (R134), with the policy of R97. -/
def State.seqSub (s : State) : State :=
  let r := subu s.policy s.draws s.t1 s.low
  { s with t2 := r.1, draws := r.2, sstate := .fMulD }

/-- F_ADV: the pair is replaced as one update (R135). -/
def State.seqAdvance (s : State) : State :=
  if s.kl.getLsbD s.p.toNat then
    { s with low := s.f2n1, high := addu s.f2n1 s.f2n, sstate := .fNext }
  else { s with low := s.f2n, high := s.f2n1, sstate := .fNext }

/-- F_NEXT (R136, R137). -/
def State.seqNext (s : State) : State :=
  if s.p = 0#6 then { s with sstate := .commit } else { s with p := s.p - 1#6, sstate := .fMul2 }

/-- One transition of the FSM (R137), less the two that the host and the commit make: IDLE waits
for an accept and COMMIT for the command's commit. -/
def State.fsmStep (s : State) : State :=
  match s.sstate with
  | .idle => s
  | .exec => { s with sstate := .commit }
  | .fInit => s.seqInit
  | .fMul2 => { s with t1 := mulu s.high twoBig, sstate := .fSub }
  | .fSub => s.seqSub
  | .fMulD => { s with f2n := mulu s.low s.t2, sstate := .fSqL }
  | .fSqL => { s with sql := mulu s.low s.low, sstate := .fSqH }
  | .fSqH => { s with sqh := mulu s.high s.high, sstate := .fAddS }
  | .fAddS => { s with f2n1 := addu s.sql s.sqh, sstate := .fAdv }
  | .fAdv => s.seqAdvance
  | .fNext => s.seqNext
  | .commit => s

/-- Up to `n` FSM transitions, stopping at COMMIT (R137). -/
def State.runFsm : Nat → State → State
  | 0, s => s
  | n + 1, s => if s.sstate = .commit then s else State.runFsm n s.fsmStep

/-- The states from which those transitions are made, in order (R137, R138). -/
def State.fsmVisits : Nat → State → List State
  | 0, _ => []
  | n + 1, s => if s.sstate = .commit then [] else s :: State.fsmVisits n s.fsmStep

/-- The states in which the multiplier runs (R137). -/
def SeqState.multiplies : SeqState → Bool
  | .fMul2 | .fMulD | .fSqL | .fSqH => true
  | .idle | .exec | .fInit | .fSub | .fAddS | .fAdv | .fNext | .commit => false

/-- The state's transition runs the adder: F_ADDS, and F_ADV where the consumed bit is 1 (R135, R137). -/
def State.adds (s : State) : Bool :=
  s.sstate = .fAddS ∨ (s.sstate = .fAdv ∧ s.kl.getLsbD s.p.toNat = true)

/-- As many transitions as the longest run has from F_INIT to COMMIT: F_INIT and 64 rounds of 8
transitions (R136, R137). -/
def fsmTransitions : Nat := 1 + 64 * 8

/-- The pair of working registers (R41) with the count of drawn values (R97). -/
structure SeqPair where
  low : BigNum
  high : BigNum
  draws : Nat
  deriving DecidableEq, Repr

/-- One round and its advance (R134, R135) with the consumed bit. -/
def seqRound (policy : UnderflowPolicy) (bit : Bool) (q : SeqPair) : SeqPair :=
  let t1 := mulu q.high twoBig
  let d := subu policy q.draws t1 q.low
  let f2n := mulu q.low d.1
  let f2n1 := addu (mulu q.low q.low) (mulu q.high q.high)
  if bit then ⟨f2n1, addu f2n1 f2n, d.2⟩ else ⟨f2n, f2n1, d.2⟩

/-- The loop of R136 over the `n` lowest bits of k, the highest of them first. -/
def seqRounds (policy : UnderflowPolicy) (k : BitVec 64) : Nat → SeqPair → SeqPair
  | 0, q => q
  | n + 1, q => seqRounds policy k n (seqRound policy (k.getLsbD n) q)

/-- The round's SUBU underflows (R141). -/
def SeqPair.underflows (q : SeqPair) : Bool := Sys2Proof.underflows (mulu q.high twoBig) q.low

/-- Some round of the loop over the `n` lowest bits of k underflows, every result before it being the
datapath's (R139, R141). -/
def roundsUnderflow (k : BitVec 64) : Nat → SeqPair → Bool
  | 0, _ => false
  | n + 1, q => q.underflows || roundsUnderflow k n (seqRound .wrap (k.getLsbD n) q)

/-- The pair before the first round (R133). -/
def seqStart (draws : Nat) : SeqPair := ⟨zeroBig, oneBig, draws⟩

/-- The run for k contains an underflowing SUBU (R141). -/
def fibUnderflows (k : BitVec 64) : Bool :=
  if k = 0#64 then false else roundsUnderflow k (topBit k + 1) (seqStart 0)

/-- SEQ_RESULT(k) (R132, R133, R136) with `draws` values drawn before the run, and how many are
drawn after it. -/
def seqResult (policy : UnderflowPolicy) (draws : Nat) (k : BitVec 64) : BigNum × Nat :=
  if k = 0#64 then (zeroBig, draws)
  else
    let q := seqRounds policy k (topBit k + 1) (seqStart draws)
    (q.low, q.draws)

end Sys2Proof.Machine
end

