-- ==== Sys2Proof/Machine/Agents.lean ====
section
/-! DEFINITION. One clock cycle as the host's side sees it: the bus operation of the cycle, its effect
at the edge (20_memory.md R51), and the reset edge (70_reset_and_hazards.md R180). -/

namespace Sys2Proof.Machine

/-- The cycle the environment gives when its list has ended: `rst` low, and a command in flight
commits (R190; log 3). -/
def quietCycle : EnvCycle := ⟨false, .finish⟩

/-- The environment's choice for the current cycle. -/
def State.now (s : State) : EnvCycle := s.env.headD quietCycle

/-- The environment's list after the current cycle. -/
def State.popEnv (s : State) : State := { s with env := s.env.tail }

/-- The address of the read the host presents in this cycle, if it presents one (R50, R79). -/
def State.readNow (s : State) : Option PortAddr :=
  match s.host with
  | .read a :: _ => some a
  | .wait :: _ => some statusAddr
  | _ => none

/-- The host's list after this cycle, when a read of it returned `d`: WAIT ends when BUSY, bit 0,
reads 0 (R79). -/
def hostRest (d : Word) : List HostOp → List HostOp
  | [] => []
  | .wait :: rest => if d.getLsbD 0 then .wait :: rest else rest
  | _ :: rest => rest

/-- The effect of the write the host presents in this cycle, if it presents one (R51). -/
def State.busWrite (s : State) : State :=
  match s.host with
  | .write a w :: _ => s.portWrite a w
  | _ => s

/-- What the host's side of the port leaves of a cycle in which its read, if any, returned
`data`: `hrdata`, the record of reads, and the rest of the host's list. -/
def State.busEnd (s : State) (host : List HostOp) (data : Option Word) : State :=
  { s with
    host := hostRest (data.getD 0) host
    hrdata := data
    reads := data.toList ++ s.reads }

/-- The host's transaction of a cycle with `rst` low: a read returns the state at the start of the
cycle and a write takes effect at its end (R51). -/
def State.hostEdge (s : State) : State :=
  (s.busWrite.busEnd s.host (s.readNow.map s.portRead)).popEnv

/-- A clock edge with `rst` high (R180, R181): everything takes its reset value, a transaction has no
effect, a read returns 0. The build's policy, the count of drawn values and the host's side are not
the machine's to reset (log 12). -/
def State.resetEdge (s : State) : State :=
  let data : Option Word := s.readNow.map fun _ => 0
  { State.reset with
    policy := s.policy
    draws := s.draws
    host := hostRest (data.getD 0) s.host
    env := s.env.tail
    hrdata := data
    reads := data.toList ++ s.reads }

end Sys2Proof.Machine
end

