-- ==== Sys2Proof/Machine/Arithmetic.lean ====
section
/-! DEFINITION. The meanings of ADD, SUB, MUL and COPY (40_fixedbignumber.md R111 to R114): what the
core does at the commit of the command. The operands are read then, which R43 allows (log 7). -/

namespace Sys2Proof.Machine

/-- ADD: `R[RD] <- ADDU(R[RS1], R[RS2])` (R111). -/
def execAdd (rd rs1 rs2 : RegId) (s : State) : Result :=
  .next (s.commitReg rd (addu (s.reg rs1) (s.reg rs2)))

/-- SUB: `R[RD] <- SUBU(R[RS1], R[RS2])` (R112); an underflow is silent (R97). -/
def execSub (rd rs1 rs2 : RegId) (s : State) : Result :=
  let r := subu s.policy s.draws (s.reg rs1) (s.reg rs2)
  .next { s.commitReg rd r.1 with draws := r.2 }

/-- MUL: `R[RD] <- MULU(R[RS1], R[RS2])` (R113). -/
def execMul (rd rs1 rs2 : RegId) (s : State) : Result :=
  .next (s.commitReg rd (mulu (s.reg rs1) (s.reg rs2)))

/-- COPY: `R[RD] <- R[RS1]` (R104, R114). -/
def execCopy (rd rs1 : RegId) (s : State) : Result :=
  .next (s.commitReg rd (s.reg rs1))

end Sys2Proof.Machine
end

