-- ==== Sys2Proof/Machine/Compare.lean ====
section
/-! DEFINITION. The meanings of CMPEQ and ISZERO (40_fixedbignumber.md R115, R116): what the core
does at the commit of the command. -/

namespace Sys2Proof.Machine

/-- CMPEQ: `STATUS.EQ <- EQU(R[RS1], R[RS2])` (R115). -/
def execCmpeq (rs1 rs2 : RegId) (s : State) : Result :=
  .next (s.commitEq (equ (s.reg rs1) (s.reg rs2)))

/-- ISZERO: `STATUS.EQ <- ZDET(R[RS1])` (R116). -/
def execIszero (rs1 : RegId) (s : State) : Result :=
  .next (s.commitEq (zdet (s.reg rs1)))

end Sys2Proof.Machine
end

