-- ==== Sys2Proof/Machine/Fibonacci.lean ====
section
/-! DEFINITION. The meaning of FIB (41_fast_doubling.md R131): SEQ runs on to COMMIT from the FSM
state it is in, and the commit writes LOW to the destination. -/

namespace Sys2Proof.Machine

/-- FIB: `R[RD] <- SEQ_RESULT(KL)` (R131, R136). -/
def execFib (rd : RegId) (s : State) : Result :=
  let t := State.runFsm fsmTransitions s
  .next (t.commitReg rd t.low)

end Sys2Proof.Machine
end

