-- ==== Sys2Proof/Machine/Step.lean ====
section
/-! DEFINITION. One step of the machine: one cycle of `clk`. -/

namespace Sys2Proof.Machine

/-- The core's side of a clock edge that ends a cycle begun with BUSY = 1 (R110, R190); `h` is the
state after the host's side of the same edge, which can change only ERR (R34). -/
def coreEdge (move : CoreMove) (h : State) : Result :=
  match move with
  | .work n => .next (State.runFsm n h)
  | .finish =>
    match h.inflight with
    | .ok i => exec i h
    | .error _ => .fault .illegalLatch

/-- One cycle: reset wins (R180); a command in flight at the start of the cycle moves on or commits
beside the host's transaction (R51, R169); otherwise the transaction is all that happens. -/
def step (s : State) : Host.Outcome State Fault Refusal :=
  if s.now.rst then .next s.resetEdge
  else if s.busy then coreEdge s.now.core s.hostEdge
  else .next s.hostEdge

/-- The state in which the very next step runs the command word `w` (log 1): a legal word stands
accepted (R110) with its commit due in the coming cycle, an illegal one stands in the host's next
write to CMD of an idle core (R76). -/
def State.withFetchWord (s : State) (nbits w : Nat) : State :=
  let word := BitVec.ofNat 32 (w % 2 ^ nbits)
  match decode word with
  | .ok _ => { s.acceptWord word with env := quietCycle :: s.env }
  | .error _ =>
    { s with
      busy := false
      sstate := .idle
      host := .write cmdAddr word :: s.host
      env := quietCycle :: s.env }

end Sys2Proof.Machine
end

