-- ==== Sys2Proof/Machine/Assembler.lean ====
section
/-! DEFINITION. The host's assembly language (30_encoding.md R78), its pseudo-instructions and their
expansions into bus operations (R79), and the reading of a line of text. -/

namespace Sys2Proof.Machine

/-- A statement of the assembly language (R78, R79). -/
inductive Stmt where
  /-- One of the seven commands: a write to CMD. -/
  | cmd (i : Instr)
  /-- `WR a, w`, with a byte address. -/
  | wr (a w : Nat)
  /-- `RD a`, with a byte address. -/
  | rd (a : Nat)
  /-- `.word w`: the word `w` written to CMD. -/
  | word (w : Nat)
  /-- `LDR Rr, v`. -/
  | ldr (r : RegId) (v : Nat)
  /-- `LDK k`. -/
  | ldk (k : Nat)
  /-- `WAIT`. -/
  | wait
  /-- `RDR Rr`. -/
  | rdr (r : RegId)
  /-- `CLRERR`. -/
  | clrerr
  /-- `FIBK Rd, k`. -/
  | fibk (rd : RegId) (k : Nat)
  deriving DecidableEq, Repr

/-- A byte address the port can carry: a multiple of 4 in the window (R50, R59). -/
def addrLegal (a : Nat) : Bool := a % 4 = 0 ∧ a < 0x1000

/-- The operand ranges of R78 and R79. -/
def Stmt.wellFormed : Stmt → Bool
  | .cmd i => i.wellFormed
  | .wr a w => addrLegal a && decide (w < 2 ^ 32)
  | .rd a => addrLegal a
  | .word w => w < 2 ^ 32
  | .ldr _ v => v < Config.modulus
  | .ldk k => k < 2 ^ 64
  | .wait => true
  | .rdr _ => true
  | .clrerr => true
  | .fibk _ k => k < 2 ^ 64

/-- The limb numbers, limb 0 first. -/
def limbIds : List LimbId := List.finRange 8

/-- `LDR Rr, v` (R79). -/
def expandLdr (r : RegId) (v : Nat) : List HostOp :=
  limbIds.map fun i => .write (limbAddr r i) (((big v)[i.val]).setWidth 32)

/-- `LDK k` (R79). -/
def expandLdk (k : Nat) : List HostOp :=
  [.write kLoAddr (BitVec.ofNat 32 k), .write kHiAddr (BitVec.ofNat 32 (k / 2 ^ 32))]

/-- `RDR Rr` (R79). -/
def expandRdr (r : RegId) : List HostOp := limbIds.map fun i => .read (limbAddr r i)

/-- The bus operations of a statement (R78, R79). -/
def Stmt.expand : Stmt → List HostOp
  | .cmd i => [.write cmdAddr (encode i)]
  | .wr a w => [.write (portAddr a) (BitVec.ofNat 32 w)]
  | .rd a => [.read (portAddr a)]
  | .word w => [.write cmdAddr (BitVec.ofNat 32 w)]
  | .ldr r v => expandLdr r v
  | .ldk k => expandLdk k
  | .wait => [.wait]
  | .rdr r => expandRdr r
  | .clrerr => [.write statusAddr 0]
  | .fibk r k => expandLdk k ++ [.write cmdAddr (encode (.fib r)), .wait]

/-- The bus operations of a program. -/
def assemble (prog : List Stmt) : List HostOp := prog.flatMap Stmt.expand

/-- A token that ends where a separator stands; empty ones vanish. -/
def endToken (cur : List Char) : List (List Char) := if cur = [] then [] else [cur.reverse]

/-- The tokens of a line: a comma is one, blanks separate, `;` starts a comment (R78). `cur` is the
token being read, last character first. -/
def tokens (cur : List Char) : List Char → List (List Char)
  | [] => endToken cur
  | c :: cs =>
    if c = ';' then endToken cur
    else if c = ' ' ∨ c = '\t' then endToken cur ++ tokens [] cs
    else if c = ',' then endToken cur ++ [','] :: tokens [] cs
    else tokens (c :: cur) cs

/-- The value of a digit in a radix of at most 16. -/
def digitOf (radix : Nat) (c : Char) : Option Nat :=
  let d :=
    if '0' ≤ c ∧ c ≤ '9' then some (c.toNat - '0'.toNat)
    else if 'a' ≤ c ∧ c ≤ 'f' then some (c.toNat - 'a'.toNat + 10)
    else if 'A' ≤ c ∧ c ≤ 'F' then some (c.toNat - 'A'.toNat + 10)
    else none
  d.filter (· < radix)

/-- The digits of a number, the most significant first; `acc` is the value read so far. -/
def readDigits (radix acc : Nat) : List Char → Option Nat
  | [] => some acc
  | c :: cs => (digitOf radix c).bind fun d => readDigits radix (acc * radix + d) cs

/-- A number: decimal, or hexadecimal with a `0x` prefix (R78). -/
def readNumber (t : List Char) : Option Nat :=
  match t with
  | [] => none
  | '0' :: 'x' :: ds => if ds = [] then none else readDigits 16 0 ds
  | ds => readDigits 10 0 ds

/-- A register name, R0 to R3 in either case (R78). -/
def readReg (t : List Char) : Option RegId :=
  match t with
  | [r, d] =>
    if r = 'R' ∨ r = 'r' then
      (digitOf 10 d).bind fun n => if h : n < 4 then some ⟨n, h⟩ else none
    else none
  | _ => none

/-- Statements with no operand. -/
def readStmt0 (m : List Char) : Option Stmt :=
  if m = ['W', 'A', 'I', 'T'] then some .wait
  else if m = ['C', 'L', 'R', 'E', 'R', 'R'] then some .clrerr
  else none

/-- Statements with one operand. -/
def readStmt1 (m a : List Char) : Option Stmt :=
  if m = ['I', 'S', 'Z', 'E', 'R', 'O'] then (readReg a).map fun r => .cmd (.iszero r)
  else if m = ['F', 'I', 'B'] then (readReg a).map fun r => .cmd (.fib r)
  else if m = ['R', 'D', 'R'] then (readReg a).map .rdr
  else if m = ['R', 'D'] then (readNumber a).map .rd
  else if m = ['.', 'w', 'o', 'r', 'd'] then (readNumber a).map .word
  else if m = ['L', 'D', 'K'] then (readNumber a).map .ldk
  else none

/-- Statements with two operands. -/
def readStmt2 (m a b : List Char) : Option Stmt :=
  if m = ['C', 'O', 'P', 'Y'] then
    (readReg a).bind fun rd => (readReg b).map fun rs1 => .cmd (.copy rd rs1)
  else if m = ['C', 'M', 'P', 'E', 'Q'] then
    (readReg a).bind fun rs1 => (readReg b).map fun rs2 => .cmd (.cmpeq rs1 rs2)
  else if m = ['W', 'R'] then (readNumber a).bind fun x => (readNumber b).map fun w => .wr x w
  else if m = ['L', 'D', 'R'] then (readReg a).bind fun r => (readNumber b).map fun v => .ldr r v
  else if m = ['F', 'I', 'B', 'K'] then
    (readReg a).bind fun r => (readNumber b).map fun k => .fibk r k
  else none

/-- Statements with three operands. -/
def readStmt3 (m a b c : List Char) : Option Stmt :=
  (readReg a).bind fun rd => (readReg b).bind fun rs1 => (readReg c).bind fun rs2 =>
    if m = ['A', 'D', 'D'] then some (.cmd (.add rd rs1 rs2))
    else if m = ['S', 'U', 'B'] then some (.cmd (.sub rd rs1 rs2))
    else if m = ['M', 'U', 'L'] then some (.cmd (.mul rd rs1 rs2))
    else none

/-- The statement of a line's tokens, if it has one with its operands in range. -/
def readTokens (ts : List (List Char)) : Option Stmt :=
  let stmt : Option Stmt :=
    match ts with
    | [m] => readStmt0 m
    | [m, a] => readStmt1 m a
    | [m, a, s, b] => if s = [','] then readStmt2 m a b else none
    | [m, a, s, b, t, c] => if s = [','] ∧ t = [','] then readStmt3 m a b c else none
    | _ => none
  stmt.filter Stmt.wellFormed

/-- A line of text (R78): no statement where it is blank or a comment, `none` where it is not of the
language. -/
def readLine (line : List Char) : Option (List Stmt) :=
  match tokens [] line with
  | [] => some []
  | ts => (readTokens ts).map fun s => [s]

end Sys2Proof.Machine
end

