-- ==== Sys2Proof/Machine/Timing.lean ====
section
/-! DEFINITION. The non-normative reference schedule (70_reset_and_hazards.md R191) and the operation
counts of a FIB (41_fast_doubling.md R138). No step uses them: latency is open (R190; log 3). -/

namespace Sys2Proof.Machine

/-- bitlen(k) (R191). -/
def bitLen (k : BitVec 64) : Nat := if k = 0#64 then 0 else topBit k + 1

/-- popcount(k) (R138, R191). -/
def popCount (k : BitVec 64) : Nat := (List.range 64).countP fun j => k.getLsbD j

/-- LAT of the reference schedule, in cycles (R191). -/
def referenceLatency (i : Instr) (k : BitVec 64) : Nat :=
  match i with
  | .add .. => 9
  | .sub .. => 9
  | .mul .. => 37
  | .copy .. => 2
  | .cmpeq .. => 2
  | .iszero .. => 2
  | .fib .. => if k = 0#64 then 2 else 2 + 162 * bitLen k + 7 * popCount k

/-- The environment's cycles of a command in flight whose FSM makes the listed numbers of
transitions in the cycles before the commit's: LAT is one more than their count (R190). -/
def flightCycles (work : List Nat) : List EnvCycle :=
  work.map (fun n => ⟨false, .work n⟩) ++ [⟨false, .finish⟩]

/-- MULU operations of a FIB (R138). -/
def fibMultiplies (k : BitVec 64) : Nat := 4 * bitLen k

/-- SUBU operations of a FIB (R138). -/
def fibSubtracts (k : BitVec 64) : Nat := bitLen k

/-- ADDU operations of a FIB (R138). -/
def fibAdds (k : BitVec 64) : Nat := bitLen k + popCount k

end Sys2Proof.Machine
end

