-- ==== Sys2Proof/Safety.lean ====
section
/-! DEFINITION. The terms claims are stated in: runs of several cycles, the machine's invariant, which
writes are refused and with which code, and which hidden registers hold a value that is still used. -/

namespace Sys2Proof.Machine

/-- `n` cycles, stopping at the first fault or refusal. -/
def steps : Nat → State → Result
  | 0, s => .next s
  | n + 1, s =>
    match step s with
    | .next t => steps n t
    | .fault f => .fault f
    | .refused r => .refused r

/-- Every big register is canonical: the capacity invariant (R25). -/
abbrev State.RegsCanon (s : State) : Prop := ∀ r : RegId, (s.reg r).Canon

/-- The FSM states of a FIB between its accept and COMMIT (R137). -/
def SeqState.inFib : SeqState → Bool
  | .fInit | .fMul2 | .fSub | .fMulD | .fSqL | .fSqH | .fAddS | .fAdv | .fNext => true
  | .idle | .exec | .commit => false

/-- In a FIB run, the FSM is at COMMIT with FIB's result in LOW (R137). -/
def State.fibDone (s : State) : Bool := s.sstate = .commit ∧ s.opl = 7#4

/-- LOW is read later in the run before it is written (R134, R135, R136). -/
def State.lowLive (s : State) : Bool :=
  match s.sstate with
  | .fMul2 | .fSub | .fMulD | .fSqL | .fNext => true
  | .commit => s.fibDone
  | .idle | .exec | .fInit | .fSqH | .fAddS | .fAdv => false

/-- HIGH is read later in the run before it is written. -/
def SeqState.highLive : SeqState → Bool
  | .fMul2 | .fSub | .fMulD | .fSqL | .fSqH | .fNext => true
  | .idle | .exec | .fInit | .fAddS | .fAdv | .commit => false

/-- F2N is read later in the round. -/
def SeqState.f2nLive : SeqState → Bool
  | .fSqL | .fSqH | .fAddS | .fAdv => true
  | .idle | .exec | .fInit | .fMul2 | .fSub | .fMulD | .fNext | .commit => false

/-- SQL is read later in the round. -/
def SeqState.sqlLive : SeqState → Bool
  | .fSqH | .fAddS => true
  | .idle | .exec | .fInit | .fMul2 | .fSub | .fMulD | .fSqL | .fAdv | .fNext | .commit => false

/-- P is read later in the run. -/
def SeqState.pLive : SeqState → Bool
  | .fMul2 | .fSub | .fMulD | .fSqL | .fSqH | .fAddS | .fAdv | .fNext => true
  | .idle | .exec | .fInit | .commit => false

/-- The state with every hidden register whose value is not used any more set to 0 (R41 to R44): two
states are the same machine to the host when these are equal. -/
def State.scrub (s : State) : State :=
  { s with
    opl := if s.sstate = .idle then 0#4 else s.opl
    rdl := if s.sstate = .idle then 0 else s.rdl
    rs1l := if s.sstate = .idle then 0 else s.rs1l
    rs2l := if s.sstate = .idle then 0 else s.rs2l
    kl := if s.sstate.inFib then s.kl else 0#64
    p := if s.sstate.pLive then s.p else 0#6
    low := if s.lowLive then s.low else zeroBig
    high := if s.sstate.highLive then s.high else zeroBig
    t1 := if s.sstate = .fSub then s.t1 else zeroBig
    t2 := if s.sstate = .fMulD then s.t2 else zeroBig
    f2n := if s.sstate.f2nLive then s.f2n else zeroBig
    sql := if s.sstate.sqlLive then s.sql else zeroBig
    sqh := if s.sstate = .fAddS then s.sqh else zeroBig
    f2n1 := if s.sstate = .fAdv then s.f2n1 else zeroBig }

/-- The invariant of the machine. -/
structure Inv (s : State) : Prop where
  /-- The capacity invariant (R25). -/
  regs : s.RegsCanon
  /-- The FSM is IDLE exactly while no command is in flight (R34, R137). -/
  idle : s.sstate = .idle ↔ s.busy = false
  /-- BUSY = 1 and DONE = 1 never occurs (R35). -/
  done : s.busy = true → s.done = false
  /-- The latched fields are a command while one is in flight (R43, R76). -/
  flight : s.busy = true → ∃ i, s.inflight = .ok i
  /-- The FIB states are FIB's and EXEC is the other commands' (R137). -/
  kind : s.busy = true → (s.sstate.inFib = true → s.opl = 7#4) ∧ (s.sstate = .exec → s.opl ≠ 7#4)
  /-- A working register whose value is still used is canonical (R25, R90). -/
  low : s.lowLive = true → s.low.Canon
  high : s.sstate.highLive = true → s.high.Canon
  f2n : s.sstate.f2nLive = true → s.f2n.Canon
  f2n1 : s.sstate = .fAdv → s.f2n1.Canon

/-- The byte address is that of a limb (R52). -/
def limbByte (b : Nat) : Bool := 0x100 ≤ b ∧ b ≤ 0x17C

/-- The byte address is ID's or a reserved one (R162). -/
def addrByte (b : Nat) : Bool :=
  b = 0x000 ∨ b = 0x00C ∨ (0x018 ≤ b ∧ b ≤ 0x0FC) ∨ 0x180 ≤ b

/-- The code with which a host write is refused, by the causes of R162 in the order of R164. -/
def writeRefusal (busy : Bool) (a : PortAddr) (w : Word) : Option ErrCode :=
  let b := byteAddr a
  if addrByte b then some .addr
  else if busy ∧ b ≠ 0x008 then some .busy
  else if b = 0x004 ∧ opcodeRows.all (fun row => !row.admits w) then some .illegal
  else if limbByte b ∧ Config.base ≤ w.toNat then some .range
  else none

end Sys2Proof.Machine
end

