-- ==== Sys2Proof/Certificates/Slice0/Obligations.lean ====
section
/-! DEFINITION. The statements for the provers, each a rule of spec/ or a consequence of several. -/

open Sys2Proof Sys2Proof.Machine

/-! ### Encoding (30_encoding.md) -/

/-- R71, R72, R76: the decoder reads back every operand of every command the encoder writes. -/
def Obligations.DecodeOfEncodeIsTheCommand : Prop :=
  ∀ i : Instr, i.wellFormed = true → decode (encode i) = .ok i

/-- R71, R75: no word but its encoding decodes to a command, so no bit of a word is ignored. -/
def Obligations.DecodedWordIsTheEncoding : Prop :=
  ∀ (w : Word) (i : Instr), decode w = .ok i → encode i = w

/-- R73: a word is a command exactly when it meets the command's match and mask, and at most one row
admits a word. -/
def Obligations.CommandExactlyWhenMatchAndMask : Prop :=
  (∀ (w : Word) (row : OpcodeRow), row ∈ opcodeRows →
    (row.admits w = true ↔ ∃ i : Instr, decode w = .ok i ∧ i.row = row)) ∧
  (∀ (w : Word) (row row' : OpcodeRow), row ∈ opcodeRows → row' ∈ opcodeRows →
    row.admits w = true → row'.admits w = true → row = row')

/-- R74: which words the decoder rejects. -/
def Obligations.IllegalWordsAreTheReservedOnes : Prop :=
  ∀ w : Word,
    (∃ e, decode w = .error e) ↔
      (w.extractLsb' 0 4 = 0#4 ∨ 8 ≤ (w.extractLsb' 0 4).toNat ∨ w.extractLsb' 10 22 ≠ 0#22 ∨
        (w.extractLsb' 0 4 = 4#4 ∧ w.extractLsb' 8 2 ≠ 0#2) ∨
        (w.extractLsb' 0 4 = 5#4 ∧ w.extractLsb' 4 2 ≠ 0#2) ∨
        (w.extractLsb' 0 4 = 6#4 ∧ (w.extractLsb' 4 2 ≠ 0#2 ∨ w.extractLsb' 8 2 ≠ 0#2)) ∨
        (w.extractLsb' 0 4 = 7#4 ∧ (w.extractLsb' 6 2 ≠ 0#2 ∨ w.extractLsb' 8 2 ≠ 0#2)))

/-- R80: the worked encodings, both ways. -/
def Obligations.WorkedEncodingsDecode : Prop :=
  ∀ p ∈ ([(.add 2 0 1, 0x00000121), (.sub 0 1 2, 0x00000242), (.mul 2 0 1, 0x00000123),
      (.mul 3 3 3, 0x000003F3), (.copy 1 2, 0x00000094), (.cmpeq 0 1, 0x00000105),
      (.iszero 2, 0x00000086), (.fib 1, 0x00000017), (.fib 0, 0x00000007)] : List (Instr × Word)),
    decode p.2 = .ok p.1 ∧ encode p.1 = p.2

/-! ### Reset (70_reset_and_hazards.md) -/

/-- R181: every value the spec gives for reset. -/
def Obligations.ResetHoldsTheSpecsValues : Prop :=
  (∀ r : RegId, State.reset.reg r = zeroBig) ∧
  (∀ (r : RegId) (i : LimbId), State.reset.portRead (limbAddr r i) = 0) ∧
  State.reset.portRead (portAddr 0x000) = 0x01040808 ∧
  State.reset.busy = false ∧ State.reset.done = false ∧ State.reset.eq = false ∧
  State.reset.err = .none ∧ State.reset.portRead statusAddr = 0 ∧
  State.reset.kLo = 0 ∧ State.reset.kHi = 0 ∧ State.reset.sstate = .idle ∧ twoBig = big 2

/-- R180, R182: an edge with `rst` high gives every register its reset value whatever is in flight and
whatever the host presents, and a read in that cycle returns 0. The last clause, `hrdata` none in a cycle
without a read, is the model's choice (DESIGN CHOICE, log 10). -/
def Obligations.ResetEdgeLeavesResetValues : Prop :=
  ∀ s : State, s.now.rst = true →
    ∃ t, step s = .next t ∧ (∀ r, t.reg r = zeroBig) ∧ t.busy = false ∧ t.done = false ∧
      t.eq = false ∧ t.err = .none ∧ t.k = 0 ∧ t.sstate = .idle ∧
      (s.readNow.isSome = true → t.hrdata = some 0) ∧ (s.readNow = none → t.hrdata = none)

/-! ### Invariants (10_state.md) -/

/-- The invariant holds after reset. -/
def Obligations.InvHoldsAtReset : Prop := Inv State.reset

/-- R25, R34, R35: every step keeps the invariant, in particular that every big register is canonical
and that BUSY and DONE are never both 1. -/
def Obligations.StepKeepsInv : Prop :=
  ∀ s t : State, Inv s → step s = .next t → Inv t

/-- R118, R160: under the invariant no step stops: refusals, truncation and underflow included. -/
def Obligations.StepNeverStopsUnderInv : Prop :=
  ∀ s : State, Inv s → ∃ t, step s = .next t

/-! ### Datapath units (40_fixedbignumber.md) -/

/-- R92: the value of the adder. -/
def Obligations.AdderIsSumModM : Prop :=
  ∀ X Y : BigNum, X.Canon → Y.Canon →
    (addu X Y).val = (X.val + Y.val) % Config.modulus ∧ (addu X Y).Canon ∧
    addu X Y = big ((X.val + Y.val) % Config.modulus)

/-- R94: the subtractor's datapath. -/
def Obligations.SubtractorDatapathValue : Prop :=
  ∀ X Y : BigNum, X.Canon → Y.Canon →
    (subuDp X Y).Canon ∧
    (Y.val ≤ X.val → (subuDp X Y).val = X.val - Y.val) ∧
    (X.val < Y.val → (subuDp X Y).val = X.val + Config.modulus - Y.val) ∧
    (borrowOut 0 X.nats Y.nats = 1 ↔ X.val < Y.val)

/-- R96: the architectural subtraction is exact where it does not underflow, and is the policy's
result where it does. That the count `n` of drawn values is handed back unchanged by an exact one is the
model's (DESIGN CHOICE, log 5), not R96's. -/
def Obligations.SubtractionIsExact : Prop :=
  ∀ (policy : UnderflowPolicy) (n : Nat) (X Y : BigNum), X.Canon → Y.Canon →
    (Y.val ≤ X.val →
      subu policy n X Y = (big (X.val - Y.val), n) ∧ big (X.val - Y.val) = subuDp X Y) ∧
    (X.val < Y.val → subu policy n X Y = subUnderflow policy n X Y)

/-- R97: the two settings of SUB_UNDERFLOW_POLICY; a drawn result is canonical, whatever is drawn. -/
def Obligations.UnderflowFollowsThePolicy : Prop :=
  ∀ (n : Nat) (X Y : BigNum), X.Canon → Y.Canon → X.val < Y.val →
    subu .wrap n X Y = (big (X.val + Config.modulus - Y.val), n) ∧
    subu .draw n X Y = (drawnBig n, n + 1) ∧ (drawnBig n).Canon

/-- R101: the value of the multiplier. -/
def Obligations.MultiplierIsProductModM : Prop :=
  ∀ X Y : BigNum, X.Canon → Y.Canon →
    (mulu X Y).val = (X.val * Y.val) % Config.modulus ∧ (mulu X Y).Canon ∧
    mulu X Y = big ((X.val * Y.val) % Config.modulus)

/-- R98, R100: the schedule forms 36 accumulator values, and none exceeds BASE^2 - 1, which is below
2^54, nor leaves a carry above BASE - 1. -/
def Obligations.MultiplierAccumulatorBound : Prop :=
  ∀ X Y : BigNum, X.Canon → Y.Canon →
    (muluAccumulators X Y).length = 36 ∧
    ∀ t ∈ muluAccumulators X Y,
      t ≤ Config.base ^ 2 - 1 ∧ t < 2 ^ 54 ∧ t / Config.base ≤ Config.base - 1

/-- R103: the comparator and the zero detector. -/
def Obligations.ComparatorIsEquality : Prop :=
  ∀ X Y : BigNum,
    (equ X Y = true ↔ ∀ i : LimbId, X[i.val] = Y[i.val]) ∧ zdet X = equ X zeroBig ∧
    (X.Canon → Y.Canon → (equ X Y = true ↔ X.val = Y.val))

/-- R117: the arithmetic laws of the units. -/
def Obligations.UnitsObeyArithmeticLaws : Prop :=
  ∀ X Y Z : BigNum, X.Canon → Y.Canon → Z.Canon →
    addu X Y = addu Y X ∧ addu (addu X Y) Z = addu X (addu Y Z) ∧
    mulu X Y = mulu Y X ∧ mulu (mulu X Y) Z = mulu X (mulu Y Z) ∧
    mulu X (addu Y Z) = addu (mulu X Y) (mulu X Z) ∧
    addu X zeroBig = X ∧ mulu X zeroBig = zeroBig ∧ mulu X oneBig = X ∧
    (∀ policy n, Y.val ≤ X.val → addu (subu policy n X Y).1 Y = X) ∧
    (∀ policy n, (subu policy n X X).1 = zeroBig) ∧
    (∀ n, addu (subu .wrap n X Y).1 Y = X)

/-! ### What each command does at its commit (40_fixedbignumber.md, 41_fast_doubling.md)

`exec` is the command's commit (log 1), and `draws` the model's count of drawn values (log 5). -/

/-- R111: ADD writes the sum mod M to RD and ends the command; nothing else changes. -/
def Obligations.AddCommitsTheSum : Prop :=
  ∀ (rd rs1 rs2 : RegId) (s : State), s.RegsCanon →
    exec (.add rd rs1 rs2) s = .next { s with
      regs := s.regs.set rd.val (big (((s.reg rs1).val + (s.reg rs2).val) % Config.modulus))
      busy := false, done := true, sstate := .idle }

/-- R112: SUB with its precondition writes the exact difference; nothing else changes. -/
def Obligations.SubCommitsTheDifference : Prop :=
  ∀ (rd rs1 rs2 : RegId) (s : State), s.RegsCanon → (s.reg rs2).val ≤ (s.reg rs1).val →
    exec (.sub rd rs1 rs2) s = .next { s with
      regs := s.regs.set rd.val (big ((s.reg rs1).val - (s.reg rs2).val))
      busy := false, done := true, sstate := .idle }

/-- R97, R112: SUB without its precondition completes too, sets no flag and raises no error; its
result is the policy's, canonical in both. -/
def Obligations.SubUnderflowCommitsThePolicysValue : Prop :=
  ∀ (rd rs1 rs2 : RegId) (s : State), s.RegsCanon → (s.reg rs1).val < (s.reg rs2).val →
    (s.policy = .wrap → exec (.sub rd rs1 rs2) s = .next { s with
      regs := s.regs.set rd.val
        (big ((s.reg rs1).val + Config.modulus - (s.reg rs2).val))
      busy := false, done := true, sstate := .idle }) ∧
    (s.policy = .draw → exec (.sub rd rs1 rs2) s = .next { s with
      regs := s.regs.set rd.val (drawnBig s.draws)
      draws := s.draws + 1
      busy := false, done := true, sstate := .idle }) ∧
    (drawnBig s.draws).Canon

/-- R113: MUL writes the product mod M to RD; nothing else changes. -/
def Obligations.MulCommitsTheProduct : Prop :=
  ∀ (rd rs1 rs2 : RegId) (s : State), s.RegsCanon →
    exec (.mul rd rs1 rs2) s = .next { s with
      regs := s.regs.set rd.val (big (((s.reg rs1).val * (s.reg rs2).val) % Config.modulus))
      busy := false, done := true, sstate := .idle }

/-- R104, R114: COPY writes the source's value to RD; nothing else changes. -/
def Obligations.CopyCommitsTheSource : Prop :=
  ∀ (rd rs1 : RegId) (s : State),
    exec (.copy rd rs1) s = .next { s with
      regs := s.regs.set rd.val (s.reg rs1), busy := false, done := true, sstate := .idle }

/-- R115: CMPEQ sets EQ to whether the two values are equal; nothing else changes. -/
def Obligations.CmpeqCommitsEquality : Prop :=
  ∀ (rs1 rs2 : RegId) (s : State), s.RegsCanon →
    exec (.cmpeq rs1 rs2) s = .next { s with
      eq := decide ((s.reg rs1).val = (s.reg rs2).val)
      busy := false, done := true, sstate := .idle }

/-- R116: ISZERO sets EQ to whether the value is 0; nothing else changes. -/
def Obligations.IszeroCommitsZeroTest : Prop :=
  ∀ (rs1 : RegId) (s : State), s.RegsCanon →
    exec (.iszero rs1) s = .next { s with
      eq := decide ((s.reg rs1).val = 0), busy := false, done := true, sstate := .idle }

/-- R131, R132 to R137: FIB, from its accept's FSM state, writes SEQ_RESULT(KL) to RD: the FSM of R137
computes what R132 to R136 say. Besides RD, the end of the command, the count of drawn values and the
hidden working registers, nothing changes. That `exec` is the commit, with the transitions left made in
it, is log 1 and log 3; the count of drawn values, `draws`, is log 5. -/
def Obligations.FibCommitsSeqResult : Prop :=
  ∀ (rd : RegId) (s : State), s.sstate = .fInit →
    ∃ t, exec (.fib rd) s = .next t ∧
      t.reg rd = (seqResult s.policy s.draws s.kl).1 ∧
      t.draws = (seqResult s.policy s.draws s.kl).2 ∧
      (∀ q, q ≠ rd → t.reg q = s.reg q) ∧
      t.busy = false ∧ t.done = true ∧ t.sstate = .idle ∧
      t.eq = s.eq ∧ t.err = s.err ∧ t.k = s.k ∧ t.kl = s.kl ∧ t.opl = s.opl ∧ t.rdl = s.rdl ∧
      t.rs1l = s.rs1l ∧ t.rs2l = s.rs2l ∧ t.hrdata = s.hrdata ∧ t.policy = s.policy ∧
      t.host = s.host ∧ t.env = s.env ∧ t.reads = s.reads

/-- R140: FIB gives the Fibonacci number mod M whenever the policy is `wrap` or no round of its run
underflows, and then draws nothing (`draws` is the model's count, log 5). -/
def Obligations.FibGivesFibonacciModM : Prop :=
  ∀ (rd : RegId) (s : State), s.sstate = .fInit →
    (s.policy = .wrap ∨ fibUnderflows s.kl = false) →
    ∃ t, exec (.fib rd) s = .next t ∧ t.reg rd = big (Nat.fib s.kl.toNat % Config.modulus) ∧
      t.draws = s.draws

/-- R140, R141: under either policy FIB gives F(k) mod M for every k up to 611, and F(k) itself for
every k up to 307. That nothing is drawn is said of the model's count `draws` (log 5). -/
def Obligations.FibIsExactInTheSupportedRange : Prop :=
  ∀ (rd : RegId) (s : State), s.sstate = .fInit → s.kl.toNat ≤ 611 →
    ∃ t, exec (.fib rd) s = .next t ∧ t.reg rd = big (Nat.fib s.kl.toNat % Config.modulus) ∧
      t.draws = s.draws ∧ (s.kl.toNat ≤ 307 → (t.reg rd).val = Nat.fib s.kl.toNat)

/-- R140, R141: where the exact range and the range without an underflow end. -/
def Obligations.UnderflowStartsAt612 : Prop :=
  (∀ k : BitVec 64, k.toNat ≤ 611 → fibUnderflows k = false) ∧ fibUnderflows 612 = true ∧
  Nat.fib 307 < Config.modulus ∧ Config.modulus ≤ Nat.fib 308

/-- R141: under `draw` the result for k = 612 is the drawn value times F(306) mod M, and the draw for
k = 613 does not reach the result; both hold whatever is drawn. -/
def Obligations.DrawReachesResultOf612Not613 : Prop :=
  ∀ n : Nat,
    seqResult .draw n 612 = (mulu (big (Nat.fib 306 % Config.modulus)) (drawnBig n), n + 1) ∧
    seqResult .draw n 613 = (big (Nat.fib 613 % Config.modulus), n + 1)

/-- R134, R135, R139: one round takes (F(n), F(n+1)) to (F(2n), F(2n+1)) or (F(2n+1), F(2n+2)), mod M,
and draws nothing (the count of drawn values in the pair is the model's, log 5). -/
def Obligations.RoundDoublesTheIndex : Prop :=
  ∀ (policy : UnderflowPolicy) (bit : Bool) (n : Nat) (q : SeqPair),
    q.low = big (Nat.fib n % Config.modulus) → q.high = big (Nat.fib (n + 1) % Config.modulus) →
    (policy = .wrap ∨ q.underflows = false) →
    seqRound policy bit q =
      ⟨big (Nat.fib (2 * n + bit.toNat) % Config.modulus),
        big (Nat.fib (2 * n + bit.toNat + 1) % Config.modulus), q.draws⟩

/-- R144: the source's doubling consistency. -/
def Obligations.DoublingConsistency : Prop :=
  ∀ (policy : UnderflowPolicy) (n : Nat) (k : BitVec 64), 1 ≤ k.toNat → 2 * k.toNat + 1 < 2 ^ 64 →
    (policy = .wrap ∨ (fibUnderflows k = false ∧ fibUnderflows (k + 1) = false ∧
      fibUnderflows (2 * k) = false ∧ fibUnderflows (2 * k + 1) = false)) →
    (seqRound policy false
        ⟨(seqResult policy n k).1, (seqResult policy n (k + 1)).1, n⟩).low =
      (seqResult policy n (2 * k)).1 ∧
    (seqRound policy false
        ⟨(seqResult policy n k).1, (seqResult policy n (k + 1)).1, n⟩).high =
      (seqResult policy n (2 * k + 1)).1 ∧
    (seqRound policy true
        ⟨(seqResult policy n k).1, (seqResult policy n (k + 1)).1, n⟩).low =
      (seqResult policy n (2 * k + 1)).1

/-- R142: the result of a FIB is a function of k alone, apart from the draws: two machines that agree
on KL, the policy and the draws agree on it, whatever else they hold. `draws` is the model's (log 5). -/
def Obligations.FibDependsOnKAlone : Prop :=
  ∀ (rd rd' : RegId) (s s' : State), s.sstate = .fInit → s'.sstate = .fInit →
    s.kl = s'.kl → s.policy = s'.policy → s.draws = s'.draws →
    ∃ t t', exec (.fib rd) s = .next t ∧ exec (.fib rd') s' = .next t' ∧
      t.reg rd = t'.reg rd' ∧ t.draws = t'.draws

/-- R138: how many units' operations a FIB performs. -/
def Obligations.FibOperationCounts : Prop :=
  ∀ s : State, s.sstate = .fInit → s.kl ≠ 0#64 →
    ((State.fsmVisits fsmTransitions s).countP fun u => u.sstate.multiplies) =
      4 * (topBit s.kl + 1) ∧
    ((State.fsmVisits fsmTransitions s).countP fun u => u.sstate = .fSub) = topBit s.kl + 1 ∧
    ((State.fsmVisits fsmTransitions s).countP fun u => u.adds) =
      topBit s.kl + 1 + popCount s.kl ∧
    (State.runFsm fsmTransitions s).sstate = .commit

/-- R137: the transitions of the FSM from F_INIT to F_NEXT, with the registers they write. The clauses of
IDLE, EXEC and COMMIT are the model's split of R137 (DESIGN CHOICE, log 1 and log 3): the accept makes the
transition out of IDLE, and the command's commit, `exec`, runs EXEC's unit and makes the write of COMMIT
and the transition to IDLE, so that `fsmStep` leaves IDLE and COMMIT as they are and only moves EXEC on.
The count `draws` is the model's (log 5). -/
def Obligations.FsmTransitions : Prop :=
  ∀ s : State,
    (s.sstate = .idle → s.fsmStep = s) ∧
    (s.sstate = .exec → s.fsmStep = { s with sstate := .commit }) ∧
    (s.sstate = .fInit → s.kl = 0 → s.fsmStep = { s with low := zeroBig, sstate := .commit }) ∧
    (s.sstate = .fInit → s.kl ≠ 0 → s.fsmStep = { s with
      low := zeroBig, high := oneBig, p := BitVec.ofNat 6 (topBit s.kl), sstate := .fMul2 }) ∧
    (s.sstate = .fMul2 → s.fsmStep = { s with t1 := mulu s.high twoBig, sstate := .fSub }) ∧
    (s.sstate = .fSub → s.fsmStep = { s with
      t2 := (subu s.policy s.draws s.t1 s.low).1
      draws := (subu s.policy s.draws s.t1 s.low).2
      sstate := .fMulD }) ∧
    (s.sstate = .fMulD → s.fsmStep = { s with f2n := mulu s.low s.t2, sstate := .fSqL }) ∧
    (s.sstate = .fSqL → s.fsmStep = { s with sql := mulu s.low s.low, sstate := .fSqH }) ∧
    (s.sstate = .fSqH → s.fsmStep = { s with sqh := mulu s.high s.high, sstate := .fAddS }) ∧
    (s.sstate = .fAddS → s.fsmStep = { s with f2n1 := addu s.sql s.sqh, sstate := .fAdv }) ∧
    (s.sstate = .fAdv → s.kl.getLsbD s.p.toNat = true → s.fsmStep = { s with
      low := s.f2n1, high := addu s.f2n1 s.f2n, sstate := .fNext }) ∧
    (s.sstate = .fAdv → s.kl.getLsbD s.p.toNat = false → s.fsmStep = { s with
      low := s.f2n, high := s.f2n1, sstate := .fNext }) ∧
    (s.sstate = .fNext → s.p = 0 → s.fsmStep = { s with sstate := .commit }) ∧
    (s.sstate = .fNext → s.p ≠ 0 → s.fsmStep = { s with p := s.p - 1, sstate := .fMul2 }) ∧
    (s.sstate = .commit → s.fsmStep = s)

/-! ### Whole-machine rules over the commands -/

/-- R36, R37, R40, R163: no command writes ERR or K when it executes, and only CMPEQ and ISZERO write
EQ. -/
def Obligations.OnlyComparesWriteEq : Prop :=
  ∀ (i : Instr) (s t : State), exec i s = .next t →
    t.err = s.err ∧ t.k = s.k ∧ t.busy = false ∧ t.done = true ∧
    ((∀ a b, i ≠ .cmpeq a b) → (∀ a, i ≠ .iszero a) → t.eq = s.eq)

/-- R22: ADD, SUB, MUL, COPY and FIB leave every word of the port's window as it reads, but for
STATUS and the eight limbs of RD. -/
def Obligations.RegisterCommandsFrame : Prop :=
  ∀ (rd rs1 rs2 : RegId) (i : Instr) (s t : State),
    (i = .add rd rs1 rs2 ∨ i = .sub rd rs1 rs2 ∨ i = .mul rd rs1 rs2 ∨ i = .copy rd rs1 ∨
      i = .fib rd) →
    exec i s = .next t →
    ∀ a : PortAddr, a ≠ statusAddr → (∀ l : LimbId, a ≠ limbAddr rd l) →
      t.portRead a = s.portRead a

/-- R22, R115, R116: CMPEQ and ISZERO leave every word of the port's window as it reads, but for
STATUS. -/
def Obligations.CompareCommandsFrame : Prop :=
  ∀ (rs1 rs2 : RegId) (i : Instr) (s t : State), (i = .cmpeq rs1 rs2 ∨ i = .iszero rs1) →
    exec i s = .next t → ∀ a : PortAddr, a ≠ statusAddr → t.portRead a = s.portRead a

/-! ### The host port (20_memory.md, 60_exceptions.md) -/

/-- R52, R53, R54, R56: what each word of the window reads as. -/
def Obligations.PortReadMap : Prop :=
  ∀ (s : State) (b : Nat), b < 0x1000 → b % 4 = 0 →
    (b = 0x000 → s.portRead (portAddr b) = 0x01040808) ∧
    (b = 0x004 → s.portRead (portAddr b) = 0) ∧
    (b = 0x008 → s.portRead (portAddr b) = s.statusWord) ∧
    (b = 0x010 → s.portRead (portAddr b) = s.k.extractLsb' 0 32) ∧
    (b = 0x014 → s.portRead (portAddr b) = s.k.extractLsb' 32 32) ∧
    (∀ (r : RegId) (i : LimbId), b = 0x100 + 0x20 * r.val + 4 * i.val →
      s.portRead (portAddr b) = ((s.reg r)[i.val]).setWidth 32) ∧
    (b = 0x00C ∨ (0x018 ≤ b ∧ b ≤ 0x0FC) ∨ 0x180 ≤ b → s.portRead (portAddr b) = 0)

/-- R33, R37, R161: the fields of STATUS, and the five values of ERR. -/
def Obligations.StatusWordLayout : Prop :=
  ∀ s : State,
    s.statusWord.getLsbD 0 = s.busy ∧ s.statusWord.getLsbD 1 = s.done ∧
    s.statusWord.getLsbD 2 = s.eq ∧ s.statusWord.getLsbD 3 = false ∧
    s.statusWord.extractLsb' 4 4 = s.err.code ∧ s.statusWord.extractLsb' 8 24 = 0#24 ∧
    (s.err = .none → s.statusWord.extractLsb' 4 4 = 0#4) ∧
    (s.err = .illegal → s.statusWord.extractLsb' 4 4 = 1#4) ∧
    (s.err = .busy → s.statusWord.extractLsb' 4 4 = 2#4) ∧
    (s.err = .range → s.statusWord.extractLsb' 4 4 = 3#4) ∧
    (s.err = .addr → s.statusWord.extractLsb' 4 4 = 4#4) ∧
    (s.statusWord.extractLsb' 4 4).toNat ≤ 4

/-- R25, R54: under the invariant a limb always reads below BASE. -/
def Obligations.LimbReadsBelowBase : Prop :=
  ∀ (s : State) (r : RegId) (i : LimbId), Inv s → (s.portRead (limbAddr r i)).toNat < 100000000

/-- R57: a read changes no state of the machine; only the host's side moves on: `host` and `env` (log 2),
`hrdata` and the record `reads` (log 10). -/
def Obligations.ReadChangesNothing : Prop :=
  ∀ (s : State) (a : PortAddr) (rest : List HostOp), s.now.rst = false → s.busy = false →
    s.host = .read a :: rest →
    step s = .next { s with
      host := rest, env := s.env.tail, hrdata := some (s.portRead a)
      reads := s.portRead a :: s.reads }

/-- R55, R60, R188: an accepted limb write takes effect at the end of its cycle, reads back as written
from the next cycle on, and no other word of the window changes. `hrdata` none after it is the model's
choice (DESIGN CHOICE, log 10), and so are the lists `host` and `env` (log 2). -/
def Obligations.LimbWriteStores : Prop :=
  ∀ (s : State) (r : RegId) (i : LimbId) (w : Word) (rest : List HostOp), s.now.rst = false →
    s.busy = false → w.toNat < Config.base → s.host = .write (limbAddr r i) w :: rest →
    ∃ t, step s = .next t ∧
      t = { s with
        regs := s.regs.set r.val ((s.reg r).set i.val (w.setWidth 27))
        host := rest, env := s.env.tail, hrdata := none } ∧
      t.portRead (limbAddr r i) = w ∧
      ∀ a : PortAddr, a ≠ limbAddr r i → t.portRead a = s.portRead a

/-- R39, R52: an accepted write to either half of K stores the word there and leaves the other half.
`hrdata` none after it is the model's choice (DESIGN CHOICE, log 10), and so are the lists `host` and
`env` (log 2). -/
def Obligations.KWriteStores : Prop :=
  ∀ (s : State) (w : Word) (rest : List HostOp), s.now.rst = false → s.busy = false →
    (s.host = .write kLoAddr w :: rest →
      ∃ t, step s = .next t ∧ t.kLo = w ∧ t.kHi = s.kHi ∧
        t = { s with k := t.k, host := rest, env := s.env.tail, hrdata := none }) ∧
    (s.host = .write kHiAddr w :: rest →
      ∃ t, step s = .next t ∧ t.kHi = w ∧ t.kLo = s.kLo ∧
        t = { s with k := t.k, host := rest, env := s.env.tail, hrdata := none })

/-- R162, R163, R164: a refused write records its one code if ERR is 0 and changes nothing else: the
effect of the write itself, and the step of an idle machine's cycle that presents it. What the host's side
holds after that cycle (log 2, log 10) is not stated here. -/
def Obligations.RefusedWriteRecordsItsCode : Prop :=
  (∀ (s : State) (a : PortAddr) (w : Word) (c : ErrCode), writeRefusal s.busy a w = some c →
    s.portWrite a w = { s with err := if s.err = .none then c else s.err }) ∧
  ∀ (s : State) (a : PortAddr) (w : Word) (c : ErrCode) (rest : List HostOp), s.now.rst = false →
    s.busy = false → s.host = .write a w :: rest → writeRefusal false a w = some c →
    ∃ t, step s = .next t ∧
      t = { s with
        err := if s.err = .none then c else s.err
        host := t.host, env := t.env, hrdata := t.hrdata, reads := t.reads }

/-- R37, R162, R165: a write that is not refused leaves ERR as it is, but for one to STATUS. -/
def Obligations.AcceptedWriteKeepsErr : Prop :=
  ∀ (s : State) (a : PortAddr) (w : Word), writeRefusal s.busy a w = none → a ≠ statusAddr →
    (s.portWrite a w).err = s.err

/-- R165: a write to STATUS clears ERR and changes nothing else, with a command in flight too: the effect
of the write itself, and the step of an idle machine's cycle that presents it; reset clears ERR as well.
What the host's side holds after that cycle (log 2, log 10) is not stated here. -/
def Obligations.StatusWriteClearsErr : Prop :=
  (∀ (s : State) (w : Word), s.portWrite statusAddr w = { s with err := .none }) ∧
  (∀ (s : State) (w : Word) (rest : List HostOp), s.now.rst = false → s.busy = false →
    s.host = .write statusAddr w :: rest →
    ∃ t, step s = .next t ∧
      t = { s with
        err := .none, host := t.host, env := t.env, hrdata := t.hrdata, reads := t.reads }) ∧
  ∀ s : State, s.now.rst = true → ∃ t, step s = .next t ∧ t.err = .none

/-- R76, R110: a legal word written to CMD while BUSY = 0 is accepted; the whole next state. The latched
source fields are the model's form of the operand latches (log 7); `hrdata` none is the model's choice
(DESIGN CHOICE, log 10), and so are the lists `host` and `env` (log 2). -/
def Obligations.CmdWriteAcceptsTheDecodedCommand : Prop :=
  ∀ (s : State) (w : Word) (i : Instr) (rest : List HostOp), s.now.rst = false → s.busy = false →
    decode w = .ok i → s.host = .write cmdAddr w :: rest →
    ∃ t, step s = .next t ∧ t.inflight = .ok i ∧
      t = { s with
        busy := true, done := false
        opl := i.opcode, rdl := i.rdField, rs1l := i.rs1Field, rs2l := i.rs2Field
        kl := if i.opcode = 7#4 then s.k else s.kl
        sstate := if i.opcode = 7#4 then .fInit else .exec
        host := rest, env := s.env.tail, hrdata := none }

/-- R74, R76: an illegal word written to CMD while BUSY = 0 starts no command; of the machine only ERR can
change. `hrdata` none is the model's choice (DESIGN CHOICE, log 10), and so are the lists `host` and `env`
(log 2). -/
def Obligations.IllegalCmdWriteStartsNothing : Prop :=
  ∀ (s : State) (w : Word) (e : DecodeError) (rest : List HostOp), s.now.rst = false →
    s.busy = false → decode w = .error e → s.host = .write cmdAddr w :: rest →
    step s = .next { s with
      err := if s.err = .none then .illegal else s.err
      host := rest, env := s.env.tail, hrdata := none }

/-! ### Command lifecycle (40_fixedbignumber.md R110) -/

/-- R110, R190: the step that ends a command's last cycle is `exec` of the command its latched fields
decode to, beside the host's transaction of the same cycle. -/
def Obligations.StepRunsTheLatchedCommand : Prop :=
  ∀ (s : State) (i : Instr), s.now.rst = false → s.busy = true → s.now.core = .finish →
    s.inflight = .ok i → step s = exec i s.hostEdge

/-- R34, R110, R162, R165: while a command is in flight the host's transaction can change nothing of
the machine but ERR. `hrdata` none in a cycle without a read is the model's choice (DESIGN CHOICE, log
10), and so are the lists `host` and `env` (log 2) and the record `reads` (log 10). -/
def Obligations.HostChangesOnlyErrWhileBusy : Prop :=
  ∀ s : State, s.busy = true →
    s.hostEdge = { s with
      err := match s.host with
        | .write a _ :: _ =>
          if a = statusAddr then .none
          else if s.err = .none then (if addrByte (byteAddr a) then .addr else .busy)
          else s.err
        | _ => s.err
      host := hostRest ((s.readNow.map s.portRead).getD 0) s.host
      env := s.env.tail
      hrdata := s.readNow.map s.portRead
      reads := (s.readNow.map s.portRead).toList ++ s.reads }

/-- R34, R110, R186: a cycle that does not commit leaves BUSY, DONE, EQ, K and every big register. -/
def Obligations.FlightLeavesResultsUntouched : Prop :=
  ∀ (s : State) (n : Nat), s.now.rst = false → s.busy = true → s.now.core = .work n →
    ∃ t, step s = .next t ∧ t.busy = true ∧ t.done = s.done ∧ t.eq = s.eq ∧ t.k = s.k ∧
      t.regs = s.regs ∧ t.inflight = s.inflight ∧ t.kl = s.kl

/-- R51, R169: in the cycle of a commit a read returns the values before the commit, and a write to
CMD, K or a limb is refused with BUSY; the command commits all the same. -/
def Obligations.CommitCycleTransactionSeesBusy : Prop :=
  ∀ (s : State) (i : Instr) (rest : List HostOp), s.now.rst = false → s.busy = true →
    s.now.core = .finish → s.inflight = .ok i →
    (∀ a, s.host = .read a :: rest →
      ∃ t, step s = .next t ∧ t.hrdata = some (s.portRead a) ∧ t.busy = false ∧ t.done = true) ∧
    (∀ a w, s.host = .write a w :: rest →
      (a = cmdAddr ∨ a = kLoAddr ∨ a = kHiAddr ∨ ∃ r l, a = limbAddr r l) →
      ∃ t u, step s = .next t ∧ exec i s = .next u ∧ t.regs = u.regs ∧ t.eq = u.eq ∧ t.k = s.k ∧
        t.err = (if s.err = .none then .busy else s.err) ∧ t.busy = false ∧ t.done = true)

/-- R110, R142, R186, R190: whatever a command's latency, whatever transitions the FSM makes in which
of its cycles and whatever the host presents meanwhile, the command's results appear exactly at its
commit, are those of the operands at its accept, and no register changes before. -/
def Obligations.CommandCommitsAfterItsLatency : Prop :=
  ∀ (s : State) (w : Word) (i : Instr) (work : List Nat) (move : CoreMove) (rest : List HostOp)
    (later : List EnvCycle),
    s.busy = false → decode w = .ok i → s.host = .write cmdAddr w :: rest →
    s.env = ⟨false, move⟩ :: (flightCycles work ++ later) →
    (∀ n, 1 ≤ n → n ≤ work.length + 1 →
      ∃ v, steps n s = .next v ∧ v.busy = true ∧ v.done = false ∧ v.regs = s.regs ∧ v.eq = s.eq) ∧
    ∃ t u, steps (work.length + 2) s = .next t ∧ exec i (s.acceptWord w) = .next u ∧
      t.regs = u.regs ∧ t.eq = u.eq ∧ t.draws = u.draws ∧ t.k = s.k ∧ t.busy = false ∧
      t.done = true ∧ t.sstate = .idle ∧ t.env = later

/-- R62, R79, R190: a WAIT ends, with BUSY = 0 and the host at its next operation, as long as no reset
comes; its bound is the number of cycles the environment's list still has. -/
def Obligations.WaitEndsWithTheCommandCommitted : Prop :=
  ∀ (s : State) (rest : List HostOp), Inv s → s.host = .wait :: rest →
    (∀ c ∈ s.env, c.rst = false) →
    ∃ n t, n ≤ s.env.length + 2 ∧ steps n s = .next t ∧ t.host = rest ∧ t.busy = false ∧
      (s.busy = true → t.done = true) ∧ t.hrdata = some t.statusWord

/-- R41, R44, R181: what the working registers and latches hold while nothing uses them, after reset
for one, can never be seen: two machines equal but for that stay so, and the host reads the same. -/
def Obligations.DeadHiddenStateIsUnobservable : Prop :=
  ∀ s t : State, Inv s → Inv t → s.scrub = t.scrub →
    (∀ a : PortAddr, s.portRead a = t.portRead a) ∧
    ∃ s' t', step s = .next s' ∧ step t = .next t' ∧ s'.scrub = t'.scrub

/-! ### The host's pseudo-instructions (30_encoding.md R79) -/

/-- R79: LDR loads any value below 10^64 into a big register of an idle machine and changes nothing
else of it. `hrdata` none at the end is the model's choice (DESIGN CHOICE, log 10), and so are the lists `host`
and `env` (log 2). -/
def Obligations.LdrLoadsTheRegister : Prop :=
  ∀ (s : State) (r : RegId) (v : Nat) (rest : List HostOp), s.busy = false →
    (∀ c ∈ s.env, c.rst = false) → (Stmt.ldr r v).wellFormed = true →
    s.host = (Stmt.ldr r v).expand ++ rest →
    steps 8 s = .next { s with
      regs := s.regs.set r.val (big v)
      host := rest, env := s.env.drop 8, hrdata := none }

/-- R79: LDK loads any 64-bit k into K of an idle machine and changes nothing else of it. `hrdata` none at
the end is the model's choice (DESIGN CHOICE, log 10), and so are the lists `host` and `env` (log 2). -/
def Obligations.LdkLoadsK : Prop :=
  ∀ (s : State) (k : Nat) (rest : List HostOp), s.busy = false →
    (∀ c ∈ s.env, c.rst = false) → (Stmt.ldk k).wellFormed = true →
    s.host = (Stmt.ldk k).expand ++ rest →
    steps 2 s = .next { s with
      k := BitVec.ofNat 64 k, host := rest, env := s.env.drop 2, hrdata := none }
end

