-- ==== Sys2Proof/Laws/BigNumber.lean ====
section
/-! SUPPORT. Laws of the value and the canonical form of big numbers (00_scope.md R11). -/

namespace Sys2Proof

/-- Every digit of the list is below BASE. -/
abbrev Digits (l : List Nat) : Prop := ∀ x ∈ l, x < Config.base

@[simp] theorem BigNum.nats_length (X : BigNum) : X.nats.length = 8 := by simp [BigNum.nats]

theorem BigNum.nats_getElem (X : BigNum) (i : Nat) (h : i < 8) :
    X.nats[i]'(by simpa using h) = (X[i]).toNat := by simp [BigNum.nats]

theorem BigNum.canon_iff (X : BigNum) : X.Canon ↔ Digits X.nats := by
  constructor
  · intro h x hx
    obtain ⟨i, hi, rfl⟩ := List.getElem_of_mem hx
    have hi' : i < 8 := by simpa using hi
    rw [X.nats_getElem i hi']
    exact h ⟨i, hi'⟩
  · intro h i
    have := h _ (List.getElem_mem (l := X.nats) (n := i.val) (by simp))
    rwa [X.nats_getElem i.val i.isLt] at this

theorem BigNum.ext_nats {X Y : BigNum} (h : X.nats = Y.nats) : X = Y := by
  refine Vector.ext fun i hi => BitVec.eq_of_toNat_eq ?_
  rw [← X.nats_getElem i hi, ← Y.nats_getElem i hi]
  simp [h]

theorem BigNum.nats_ofNats {l : List Nat} (hl : l.length = 8) (hd : Digits l) :
    (BigNum.ofNats l).nats = l := by
  apply List.ext_getElem
  · simp [hl]
  · intro i h1 h2
    have hi : i < 8 := by simpa using h1
    rw [BigNum.nats_getElem _ i hi]
    have hlt : l[i] < Config.base := hd _ (List.getElem_mem h2)
    simp only [BigNum.ofNats, Vector.getElem_ofFn, BitVec.toNat_ofNat]
    rw [List.getD_eq_getElem l 0 h2]
    exact Nat.mod_eq_of_lt (lt_trans hlt (by decide))

theorem BigNum.canon_ofNats {l : List Nat} (hl : l.length = 8) (hd : Digits l) :
    (BigNum.ofNats l).Canon := by
  rw [BigNum.canon_iff, BigNum.nats_ofNats hl hd]
  exact hd

theorem BigNum.val_ofNats {l : List Nat} (hl : l.length = 8) (hd : Digits l) :
    (BigNum.ofNats l).val = digitsVal l := by
  rw [BigNum.val, BigNum.nats_ofNats hl hd]

theorem digitsVal_lt {l : List Nat} (hd : Digits l) : digitsVal l < Config.base ^ l.length := by
  induction l with
  | nil => simp [digitsVal]
  | cons x xs ih =>
    have hx : x < Config.base := hd x (by simp)
    have hxs := ih fun y hy => hd y (by simp [hy])
    simp only [digitsVal, List.length_cons, pow_succ]
    nlinarith

theorem digitsVal_inj {l m : List Nat} (hlen : l.length = m.length) (hl : Digits l)
    (hm : Digits m) (h : digitsVal l = digitsVal m) : l = m := by
  induction l generalizing m with
  | nil => exact (List.length_eq_zero_iff.mp (by simpa using hlen.symm)).symm
  | cons x xs ih =>
    cases m with
    | nil => simp at hlen
    | cons y ys =>
      have hx : x < Config.base := hl x (by simp)
      have hy : y < Config.base := hm y (by simp)
      simp only [digitsVal, Config.base] at h hx hy
      have e1 : x = y := by omega
      have e2 : digitsVal xs = digitsVal ys := by omega
      rw [e1, ih (by simpa using hlen) (fun z hz => hl z (by simp [hz]))
        (fun z hz => hm z (by simp [hz])) e2]

theorem base_pow_eight : Config.base ^ 8 = Config.modulus := by norm_num

theorem BigNum.val_lt {X : BigNum} (h : X.Canon) : X.val < Config.modulus := by
  have := digitsVal_lt ((BigNum.canon_iff X).mp h)
  rwa [BigNum.nats_length, base_pow_eight] at this

theorem BigNum.val_inj {X Y : BigNum} (hX : X.Canon) (hY : Y.Canon) (h : X.val = Y.val) : X = Y :=
  BigNum.ext_nats (digitsVal_inj (by simp) ((BigNum.canon_iff X).mp hX) ((BigNum.canon_iff Y).mp hY) h)

/-- The `n` lowest digits of a number, the lowest first. -/
def lowDigits (v : Nat) : Nat → List Nat
  | 0 => []
  | n + 1 => v % Config.base :: lowDigits (v / Config.base) n

@[simp] theorem lowDigits_length (v n : Nat) : (lowDigits v n).length = n := by
  induction n generalizing v with
  | zero => rfl
  | succ n ih => simp [lowDigits, ih]

theorem lowDigits_digits (v n : Nat) : Digits (lowDigits v n) := by
  induction n generalizing v with
  | zero => intro x hx; simp [lowDigits] at hx
  | succ n ih =>
    intro x hx
    rcases List.mem_cons.mp hx with rfl | hx
    · exact Nat.mod_lt _ (by decide)
    · exact ih _ x hx

theorem lowDigits_getElem (v n i : Nat) (h : i < (lowDigits v n).length) :
    (lowDigits v n)[i] = v / Config.base ^ i % Config.base := by
  induction n generalizing v i with
  | zero => simp at h
  | succ n ih =>
    cases i with
    | zero => simp [lowDigits]
    | succ i =>
      simp only [lowDigits, List.getElem_cons_succ]
      rw [ih, Nat.div_div_eq_div_mul, ← pow_succ']

theorem digitsVal_lowDigits (v n : Nat) : digitsVal (lowDigits v n) = v % Config.base ^ n := by
  induction n generalizing v with
  | zero => simp [lowDigits, digitsVal, Nat.mod_one]
  | succ n ih =>
    simp only [lowDigits, digitsVal, ih]
    rw [pow_succ', Nat.mod_mul]

theorem big_eq_ofNats (v : Nat) : big v = BigNum.ofNats (lowDigits v 8) := by
  refine Vector.ext fun i hi => ?_
  have e : (lowDigits v 8).getD i 0 = v / Config.base ^ i % Config.base := by
    rw [List.getD_eq_getElem _ 0 (by simpa using hi), lowDigits_getElem]
  simp only [big, BigNum.ofNats, Vector.getElem_ofFn, e]

theorem nats_big (v : Nat) : (big v).nats = lowDigits v 8 := by
  rw [big_eq_ofNats, BigNum.nats_ofNats (by simp) (lowDigits_digits v 8)]

theorem big_canon (v : Nat) : (big v).Canon := by
  rw [BigNum.canon_iff, nats_big]
  exact lowDigits_digits v 8

theorem val_big (v : Nat) : (big v).val = v % Config.modulus := by
  rw [BigNum.val, nats_big, digitsVal_lowDigits, base_pow_eight]

theorem big_val {X : BigNum} (h : X.Canon) : big X.val = X :=
  BigNum.val_inj (big_canon _) h (by rw [val_big, Nat.mod_eq_of_lt (BigNum.val_lt h)])

theorem eq_big_of_val {X : BigNum} (h : X.Canon) {v : Nat} (hv : X.val = v) : X = big v := by
  rw [← hv, big_val h]

theorem big_mod (v : Nat) : big (v % Config.modulus) = big v :=
  BigNum.val_inj (big_canon _) (big_canon _) (by rw [val_big, val_big, Nat.mod_mod])

theorem zeroBig_canon : zeroBig.Canon := big_canon 0

theorem oneBig_canon : oneBig.Canon := big_canon 1

theorem twoBig_canon : twoBig.Canon := big_canon 2

theorem drawnBig_canon (n : Nat) : (drawnBig n).Canon := big_canon _

@[simp] theorem val_zeroBig : zeroBig.val = 0 := by rw [zeroBig, val_big]; rfl

@[simp] theorem val_oneBig : oneBig.val = 1 := by
  rw [oneBig, val_big]; exact Nat.mod_eq_of_lt (by norm_num)

@[simp] theorem val_twoBig : twoBig.val = 2 := by
  rw [twoBig, val_big]; exact Nat.mod_eq_of_lt (by norm_num)

end Sys2Proof
end

