-- ==== Sys2Proof/Laws/Decode.lean ====
section
/-! SUPPORT. What a word that decodes tells of its fields, and the fields a command encodes
(30_encoding.md R71, R76). -/

namespace Sys2Proof

/-- A word that decodes has its reserved bits 0 and the fields of the command it decodes to. -/
theorem decode_ok {w : Word} {i : Instr} (h : decode w = .ok i) :
    (splitWord w).rsv = 0#22 ∧ (splitWord w).op = i.opcode ∧ (splitWord w).rd = i.rdField ∧
      (splitWord w).rs1 = i.rs1Field ∧ (splitWord w).rs2 = i.rs2Field := by
  simp only [decode] at h
  split at h
  · simp at h
  · next hr =>
    refine ⟨not_not.mp hr, ?_⟩
    revert h
    generalize (splitWord w).op = op
    generalize (splitWord w).rd = rd
    generalize (splitWord w).rs1 = rs1
    generalize (splitWord w).rs2 = rs2
    intro h
    have ho : op.toNat = i.opcode.toNat ∧ rd = i.rdField ∧ rs1 = i.rs1Field ∧ rs2 = i.rs2Field := by
      unfold decodeFields at h
      split at h <;> (try split at h) <;> (try split at h) <;> simp_all <;> subst h <;>
        simp [Instr.opcode, Instr.rdField, Instr.rs1Field, Instr.rs2Field]
    exact ⟨BitVec.eq_of_toNat_eq ho.1, ho.2⟩

/-- The fields of a command decode to it. -/
theorem decodeFields_fields (i : Instr) :
    decodeFields i.opcode i.rdField i.rs1Field i.rs2Field = .ok i := by
  cases i <;> simp [decodeFields, Instr.opcode, Instr.rdField, Instr.rs1Field, Instr.rs2Field]

end Sys2Proof
end

