-- ==== Sys2Proof/Laws/PerInstr.lean ====
section
/-! SUPPORT. Statements for all commands, one lemma per constructor: every encoding meets its row of
the match and mask table (30_encoding.md R73), and no other row. -/

namespace Sys2Proof.Laws.MatchMask

/-- The encoding of `i` is admitted by its own row and by no other. -/
def Statement (i : Instr) : Prop := ∀ row ∈ opcodeRows, row.admits (encode i) = decide (row = i.row)

theorem add (rd rs1 rs2 : RegId) : Statement (.add rd rs1 rs2) := by
  unfold Statement; revert rd rs1 rs2; decide +kernel

theorem sub (rd rs1 rs2 : RegId) : Statement (.sub rd rs1 rs2) := by
  unfold Statement; revert rd rs1 rs2; decide +kernel

theorem mul (rd rs1 rs2 : RegId) : Statement (.mul rd rs1 rs2) := by
  unfold Statement; revert rd rs1 rs2; decide +kernel

theorem copy (rd rs1 : RegId) : Statement (.copy rd rs1) := by
  unfold Statement; revert rd rs1; decide +kernel

theorem cmpeq (rs1 rs2 : RegId) : Statement (.cmpeq rs1 rs2) := by
  unfold Statement; revert rs1 rs2; decide +kernel

theorem iszero (rs1 : RegId) : Statement (.iszero rs1) := by
  unfold Statement; revert rs1; decide +kernel

theorem fib (rd : RegId) : Statement (.fib rd) := by
  unfold Statement; revert rd; decide +kernel

end Sys2Proof.Laws.MatchMask
end

