-- ==== Sys2Proof/Laws/State.lean ====
section
/-! SUPPORT. One equation per field of State for each update of the shared operations, true by rfl. -/

namespace Sys2Proof.Machine

section
variable (s : State)

@[simp] theorem State.setReg_regs (r : RegId) (X : BigNum) : (s.setReg r X).regs = s.regs.set r.val X := rfl
@[simp] theorem State.setReg_busy (r : RegId) (X : BigNum) : (s.setReg r X).busy = s.busy := rfl
@[simp] theorem State.setReg_done (r : RegId) (X : BigNum) : (s.setReg r X).done = s.done := rfl
@[simp] theorem State.setReg_eq (r : RegId) (X : BigNum) : (s.setReg r X).eq = s.eq := rfl
@[simp] theorem State.setReg_err (r : RegId) (X : BigNum) : (s.setReg r X).err = s.err := rfl
@[simp] theorem State.setReg_k (r : RegId) (X : BigNum) : (s.setReg r X).k = s.k := rfl
@[simp] theorem State.setReg_sstate (r : RegId) (X : BigNum) : (s.setReg r X).sstate = s.sstate := rfl
@[simp] theorem State.setReg_opl (r : RegId) (X : BigNum) : (s.setReg r X).opl = s.opl := rfl
@[simp] theorem State.setReg_rdl (r : RegId) (X : BigNum) : (s.setReg r X).rdl = s.rdl := rfl
@[simp] theorem State.setReg_rs1l (r : RegId) (X : BigNum) : (s.setReg r X).rs1l = s.rs1l := rfl
@[simp] theorem State.setReg_rs2l (r : RegId) (X : BigNum) : (s.setReg r X).rs2l = s.rs2l := rfl
@[simp] theorem State.setReg_kl (r : RegId) (X : BigNum) : (s.setReg r X).kl = s.kl := rfl
@[simp] theorem State.setReg_p (r : RegId) (X : BigNum) : (s.setReg r X).p = s.p := rfl
@[simp] theorem State.setReg_low (r : RegId) (X : BigNum) : (s.setReg r X).low = s.low := rfl
@[simp] theorem State.setReg_high (r : RegId) (X : BigNum) : (s.setReg r X).high = s.high := rfl
@[simp] theorem State.setReg_t1 (r : RegId) (X : BigNum) : (s.setReg r X).t1 = s.t1 := rfl
@[simp] theorem State.setReg_t2 (r : RegId) (X : BigNum) : (s.setReg r X).t2 = s.t2 := rfl
@[simp] theorem State.setReg_f2n (r : RegId) (X : BigNum) : (s.setReg r X).f2n = s.f2n := rfl
@[simp] theorem State.setReg_sql (r : RegId) (X : BigNum) : (s.setReg r X).sql = s.sql := rfl
@[simp] theorem State.setReg_sqh (r : RegId) (X : BigNum) : (s.setReg r X).sqh = s.sqh := rfl
@[simp] theorem State.setReg_f2n1 (r : RegId) (X : BigNum) : (s.setReg r X).f2n1 = s.f2n1 := rfl
@[simp] theorem State.setReg_hrdata (r : RegId) (X : BigNum) : (s.setReg r X).hrdata = s.hrdata := rfl
@[simp] theorem State.setReg_policy (r : RegId) (X : BigNum) : (s.setReg r X).policy = s.policy := rfl
@[simp] theorem State.setReg_draws (r : RegId) (X : BigNum) : (s.setReg r X).draws = s.draws := rfl
@[simp] theorem State.setReg_host (r : RegId) (X : BigNum) : (s.setReg r X).host = s.host := rfl
@[simp] theorem State.setReg_env (r : RegId) (X : BigNum) : (s.setReg r X).env = s.env := rfl
@[simp] theorem State.setReg_reads (r : RegId) (X : BigNum) : (s.setReg r X).reads = s.reads := rfl

@[simp] theorem State.setEq_regs (b : Bool) : (s.setEq b).regs = s.regs := rfl
@[simp] theorem State.setEq_busy (b : Bool) : (s.setEq b).busy = s.busy := rfl
@[simp] theorem State.setEq_done (b : Bool) : (s.setEq b).done = s.done := rfl
@[simp] theorem State.setEq_eq (b : Bool) : (s.setEq b).eq = b := rfl
@[simp] theorem State.setEq_err (b : Bool) : (s.setEq b).err = s.err := rfl
@[simp] theorem State.setEq_k (b : Bool) : (s.setEq b).k = s.k := rfl
@[simp] theorem State.setEq_sstate (b : Bool) : (s.setEq b).sstate = s.sstate := rfl
@[simp] theorem State.setEq_opl (b : Bool) : (s.setEq b).opl = s.opl := rfl
@[simp] theorem State.setEq_rdl (b : Bool) : (s.setEq b).rdl = s.rdl := rfl
@[simp] theorem State.setEq_rs1l (b : Bool) : (s.setEq b).rs1l = s.rs1l := rfl
@[simp] theorem State.setEq_rs2l (b : Bool) : (s.setEq b).rs2l = s.rs2l := rfl
@[simp] theorem State.setEq_kl (b : Bool) : (s.setEq b).kl = s.kl := rfl
@[simp] theorem State.setEq_p (b : Bool) : (s.setEq b).p = s.p := rfl
@[simp] theorem State.setEq_low (b : Bool) : (s.setEq b).low = s.low := rfl
@[simp] theorem State.setEq_high (b : Bool) : (s.setEq b).high = s.high := rfl
@[simp] theorem State.setEq_t1 (b : Bool) : (s.setEq b).t1 = s.t1 := rfl
@[simp] theorem State.setEq_t2 (b : Bool) : (s.setEq b).t2 = s.t2 := rfl
@[simp] theorem State.setEq_f2n (b : Bool) : (s.setEq b).f2n = s.f2n := rfl
@[simp] theorem State.setEq_sql (b : Bool) : (s.setEq b).sql = s.sql := rfl
@[simp] theorem State.setEq_sqh (b : Bool) : (s.setEq b).sqh = s.sqh := rfl
@[simp] theorem State.setEq_f2n1 (b : Bool) : (s.setEq b).f2n1 = s.f2n1 := rfl
@[simp] theorem State.setEq_hrdata (b : Bool) : (s.setEq b).hrdata = s.hrdata := rfl
@[simp] theorem State.setEq_policy (b : Bool) : (s.setEq b).policy = s.policy := rfl
@[simp] theorem State.setEq_draws (b : Bool) : (s.setEq b).draws = s.draws := rfl
@[simp] theorem State.setEq_host (b : Bool) : (s.setEq b).host = s.host := rfl
@[simp] theorem State.setEq_env (b : Bool) : (s.setEq b).env = s.env := rfl
@[simp] theorem State.setEq_reads (b : Bool) : (s.setEq b).reads = s.reads := rfl

@[simp] theorem State.setKLo_regs (w : Word) : (s.setKLo w).regs = s.regs := rfl
@[simp] theorem State.setKLo_busy (w : Word) : (s.setKLo w).busy = s.busy := rfl
@[simp] theorem State.setKLo_done (w : Word) : (s.setKLo w).done = s.done := rfl
@[simp] theorem State.setKLo_eq (w : Word) : (s.setKLo w).eq = s.eq := rfl
@[simp] theorem State.setKLo_err (w : Word) : (s.setKLo w).err = s.err := rfl
@[simp] theorem State.setKLo_k (w : Word) : (s.setKLo w).k = s.kHi ++ w := rfl
@[simp] theorem State.setKLo_sstate (w : Word) : (s.setKLo w).sstate = s.sstate := rfl
@[simp] theorem State.setKLo_opl (w : Word) : (s.setKLo w).opl = s.opl := rfl
@[simp] theorem State.setKLo_rdl (w : Word) : (s.setKLo w).rdl = s.rdl := rfl
@[simp] theorem State.setKLo_rs1l (w : Word) : (s.setKLo w).rs1l = s.rs1l := rfl
@[simp] theorem State.setKLo_rs2l (w : Word) : (s.setKLo w).rs2l = s.rs2l := rfl
@[simp] theorem State.setKLo_kl (w : Word) : (s.setKLo w).kl = s.kl := rfl
@[simp] theorem State.setKLo_p (w : Word) : (s.setKLo w).p = s.p := rfl
@[simp] theorem State.setKLo_low (w : Word) : (s.setKLo w).low = s.low := rfl
@[simp] theorem State.setKLo_high (w : Word) : (s.setKLo w).high = s.high := rfl
@[simp] theorem State.setKLo_t1 (w : Word) : (s.setKLo w).t1 = s.t1 := rfl
@[simp] theorem State.setKLo_t2 (w : Word) : (s.setKLo w).t2 = s.t2 := rfl
@[simp] theorem State.setKLo_f2n (w : Word) : (s.setKLo w).f2n = s.f2n := rfl
@[simp] theorem State.setKLo_sql (w : Word) : (s.setKLo w).sql = s.sql := rfl
@[simp] theorem State.setKLo_sqh (w : Word) : (s.setKLo w).sqh = s.sqh := rfl
@[simp] theorem State.setKLo_f2n1 (w : Word) : (s.setKLo w).f2n1 = s.f2n1 := rfl
@[simp] theorem State.setKLo_hrdata (w : Word) : (s.setKLo w).hrdata = s.hrdata := rfl
@[simp] theorem State.setKLo_policy (w : Word) : (s.setKLo w).policy = s.policy := rfl
@[simp] theorem State.setKLo_draws (w : Word) : (s.setKLo w).draws = s.draws := rfl
@[simp] theorem State.setKLo_host (w : Word) : (s.setKLo w).host = s.host := rfl
@[simp] theorem State.setKLo_env (w : Word) : (s.setKLo w).env = s.env := rfl
@[simp] theorem State.setKLo_reads (w : Word) : (s.setKLo w).reads = s.reads := rfl

@[simp] theorem State.setKHi_regs (w : Word) : (s.setKHi w).regs = s.regs := rfl
@[simp] theorem State.setKHi_busy (w : Word) : (s.setKHi w).busy = s.busy := rfl
@[simp] theorem State.setKHi_done (w : Word) : (s.setKHi w).done = s.done := rfl
@[simp] theorem State.setKHi_eq (w : Word) : (s.setKHi w).eq = s.eq := rfl
@[simp] theorem State.setKHi_err (w : Word) : (s.setKHi w).err = s.err := rfl
@[simp] theorem State.setKHi_k (w : Word) : (s.setKHi w).k = w ++ s.kLo := rfl
@[simp] theorem State.setKHi_sstate (w : Word) : (s.setKHi w).sstate = s.sstate := rfl
@[simp] theorem State.setKHi_opl (w : Word) : (s.setKHi w).opl = s.opl := rfl
@[simp] theorem State.setKHi_rdl (w : Word) : (s.setKHi w).rdl = s.rdl := rfl
@[simp] theorem State.setKHi_rs1l (w : Word) : (s.setKHi w).rs1l = s.rs1l := rfl
@[simp] theorem State.setKHi_rs2l (w : Word) : (s.setKHi w).rs2l = s.rs2l := rfl
@[simp] theorem State.setKHi_kl (w : Word) : (s.setKHi w).kl = s.kl := rfl
@[simp] theorem State.setKHi_p (w : Word) : (s.setKHi w).p = s.p := rfl
@[simp] theorem State.setKHi_low (w : Word) : (s.setKHi w).low = s.low := rfl
@[simp] theorem State.setKHi_high (w : Word) : (s.setKHi w).high = s.high := rfl
@[simp] theorem State.setKHi_t1 (w : Word) : (s.setKHi w).t1 = s.t1 := rfl
@[simp] theorem State.setKHi_t2 (w : Word) : (s.setKHi w).t2 = s.t2 := rfl
@[simp] theorem State.setKHi_f2n (w : Word) : (s.setKHi w).f2n = s.f2n := rfl
@[simp] theorem State.setKHi_sql (w : Word) : (s.setKHi w).sql = s.sql := rfl
@[simp] theorem State.setKHi_sqh (w : Word) : (s.setKHi w).sqh = s.sqh := rfl
@[simp] theorem State.setKHi_f2n1 (w : Word) : (s.setKHi w).f2n1 = s.f2n1 := rfl
@[simp] theorem State.setKHi_hrdata (w : Word) : (s.setKHi w).hrdata = s.hrdata := rfl
@[simp] theorem State.setKHi_policy (w : Word) : (s.setKHi w).policy = s.policy := rfl
@[simp] theorem State.setKHi_draws (w : Word) : (s.setKHi w).draws = s.draws := rfl
@[simp] theorem State.setKHi_host (w : Word) : (s.setKHi w).host = s.host := rfl
@[simp] theorem State.setKHi_env (w : Word) : (s.setKHi w).env = s.env := rfl
@[simp] theorem State.setKHi_reads (w : Word) : (s.setKHi w).reads = s.reads := rfl

@[simp] theorem State.clearErr_regs : (s.clearErr).regs = s.regs := rfl
@[simp] theorem State.clearErr_busy : (s.clearErr).busy = s.busy := rfl
@[simp] theorem State.clearErr_done : (s.clearErr).done = s.done := rfl
@[simp] theorem State.clearErr_eq : (s.clearErr).eq = s.eq := rfl
@[simp] theorem State.clearErr_err : (s.clearErr).err = .none := rfl
@[simp] theorem State.clearErr_k : (s.clearErr).k = s.k := rfl
@[simp] theorem State.clearErr_sstate : (s.clearErr).sstate = s.sstate := rfl
@[simp] theorem State.clearErr_opl : (s.clearErr).opl = s.opl := rfl
@[simp] theorem State.clearErr_rdl : (s.clearErr).rdl = s.rdl := rfl
@[simp] theorem State.clearErr_rs1l : (s.clearErr).rs1l = s.rs1l := rfl
@[simp] theorem State.clearErr_rs2l : (s.clearErr).rs2l = s.rs2l := rfl
@[simp] theorem State.clearErr_kl : (s.clearErr).kl = s.kl := rfl
@[simp] theorem State.clearErr_p : (s.clearErr).p = s.p := rfl
@[simp] theorem State.clearErr_low : (s.clearErr).low = s.low := rfl
@[simp] theorem State.clearErr_high : (s.clearErr).high = s.high := rfl
@[simp] theorem State.clearErr_t1 : (s.clearErr).t1 = s.t1 := rfl
@[simp] theorem State.clearErr_t2 : (s.clearErr).t2 = s.t2 := rfl
@[simp] theorem State.clearErr_f2n : (s.clearErr).f2n = s.f2n := rfl
@[simp] theorem State.clearErr_sql : (s.clearErr).sql = s.sql := rfl
@[simp] theorem State.clearErr_sqh : (s.clearErr).sqh = s.sqh := rfl
@[simp] theorem State.clearErr_f2n1 : (s.clearErr).f2n1 = s.f2n1 := rfl
@[simp] theorem State.clearErr_hrdata : (s.clearErr).hrdata = s.hrdata := rfl
@[simp] theorem State.clearErr_policy : (s.clearErr).policy = s.policy := rfl
@[simp] theorem State.clearErr_draws : (s.clearErr).draws = s.draws := rfl
@[simp] theorem State.clearErr_host : (s.clearErr).host = s.host := rfl
@[simp] theorem State.clearErr_env : (s.clearErr).env = s.env := rfl
@[simp] theorem State.clearErr_reads : (s.clearErr).reads = s.reads := rfl

@[simp] theorem State.commit_regs : (s.commit).regs = s.regs := rfl
@[simp] theorem State.commit_busy : (s.commit).busy = false := rfl
@[simp] theorem State.commit_done : (s.commit).done = true := rfl
@[simp] theorem State.commit_eq : (s.commit).eq = s.eq := rfl
@[simp] theorem State.commit_err : (s.commit).err = s.err := rfl
@[simp] theorem State.commit_k : (s.commit).k = s.k := rfl
@[simp] theorem State.commit_sstate : (s.commit).sstate = .idle := rfl
@[simp] theorem State.commit_opl : (s.commit).opl = s.opl := rfl
@[simp] theorem State.commit_rdl : (s.commit).rdl = s.rdl := rfl
@[simp] theorem State.commit_rs1l : (s.commit).rs1l = s.rs1l := rfl
@[simp] theorem State.commit_rs2l : (s.commit).rs2l = s.rs2l := rfl
@[simp] theorem State.commit_kl : (s.commit).kl = s.kl := rfl
@[simp] theorem State.commit_p : (s.commit).p = s.p := rfl
@[simp] theorem State.commit_low : (s.commit).low = s.low := rfl
@[simp] theorem State.commit_high : (s.commit).high = s.high := rfl
@[simp] theorem State.commit_t1 : (s.commit).t1 = s.t1 := rfl
@[simp] theorem State.commit_t2 : (s.commit).t2 = s.t2 := rfl
@[simp] theorem State.commit_f2n : (s.commit).f2n = s.f2n := rfl
@[simp] theorem State.commit_sql : (s.commit).sql = s.sql := rfl
@[simp] theorem State.commit_sqh : (s.commit).sqh = s.sqh := rfl
@[simp] theorem State.commit_f2n1 : (s.commit).f2n1 = s.f2n1 := rfl
@[simp] theorem State.commit_hrdata : (s.commit).hrdata = s.hrdata := rfl
@[simp] theorem State.commit_policy : (s.commit).policy = s.policy := rfl
@[simp] theorem State.commit_draws : (s.commit).draws = s.draws := rfl
@[simp] theorem State.commit_host : (s.commit).host = s.host := rfl
@[simp] theorem State.commit_env : (s.commit).env = s.env := rfl
@[simp] theorem State.commit_reads : (s.commit).reads = s.reads := rfl

@[simp] theorem State.popEnv_regs : (s.popEnv).regs = s.regs := rfl
@[simp] theorem State.popEnv_busy : (s.popEnv).busy = s.busy := rfl
@[simp] theorem State.popEnv_done : (s.popEnv).done = s.done := rfl
@[simp] theorem State.popEnv_eq : (s.popEnv).eq = s.eq := rfl
@[simp] theorem State.popEnv_err : (s.popEnv).err = s.err := rfl
@[simp] theorem State.popEnv_k : (s.popEnv).k = s.k := rfl
@[simp] theorem State.popEnv_sstate : (s.popEnv).sstate = s.sstate := rfl
@[simp] theorem State.popEnv_opl : (s.popEnv).opl = s.opl := rfl
@[simp] theorem State.popEnv_rdl : (s.popEnv).rdl = s.rdl := rfl
@[simp] theorem State.popEnv_rs1l : (s.popEnv).rs1l = s.rs1l := rfl
@[simp] theorem State.popEnv_rs2l : (s.popEnv).rs2l = s.rs2l := rfl
@[simp] theorem State.popEnv_kl : (s.popEnv).kl = s.kl := rfl
@[simp] theorem State.popEnv_p : (s.popEnv).p = s.p := rfl
@[simp] theorem State.popEnv_low : (s.popEnv).low = s.low := rfl
@[simp] theorem State.popEnv_high : (s.popEnv).high = s.high := rfl
@[simp] theorem State.popEnv_t1 : (s.popEnv).t1 = s.t1 := rfl
@[simp] theorem State.popEnv_t2 : (s.popEnv).t2 = s.t2 := rfl
@[simp] theorem State.popEnv_f2n : (s.popEnv).f2n = s.f2n := rfl
@[simp] theorem State.popEnv_sql : (s.popEnv).sql = s.sql := rfl
@[simp] theorem State.popEnv_sqh : (s.popEnv).sqh = s.sqh := rfl
@[simp] theorem State.popEnv_f2n1 : (s.popEnv).f2n1 = s.f2n1 := rfl
@[simp] theorem State.popEnv_hrdata : (s.popEnv).hrdata = s.hrdata := rfl
@[simp] theorem State.popEnv_policy : (s.popEnv).policy = s.policy := rfl
@[simp] theorem State.popEnv_draws : (s.popEnv).draws = s.draws := rfl
@[simp] theorem State.popEnv_host : (s.popEnv).host = s.host := rfl
@[simp] theorem State.popEnv_env : (s.popEnv).env = s.env.tail := rfl
@[simp] theorem State.popEnv_reads : (s.popEnv).reads = s.reads := rfl

@[simp] theorem State.accept_regs (op : BitVec 4) (rd rs1 rs2 : RegId) :
    (s.accept op rd rs1 rs2).regs = s.regs := rfl
@[simp] theorem State.accept_busy (op : BitVec 4) (rd rs1 rs2 : RegId) :
    (s.accept op rd rs1 rs2).busy = true := rfl
@[simp] theorem State.accept_done (op : BitVec 4) (rd rs1 rs2 : RegId) :
    (s.accept op rd rs1 rs2).done = false := rfl
@[simp] theorem State.accept_eq (op : BitVec 4) (rd rs1 rs2 : RegId) :
    (s.accept op rd rs1 rs2).eq = s.eq := rfl
@[simp] theorem State.accept_err (op : BitVec 4) (rd rs1 rs2 : RegId) :
    (s.accept op rd rs1 rs2).err = s.err := rfl
@[simp] theorem State.accept_k (op : BitVec 4) (rd rs1 rs2 : RegId) :
    (s.accept op rd rs1 rs2).k = s.k := rfl
@[simp] theorem State.accept_sstate (op : BitVec 4) (rd rs1 rs2 : RegId) :
    (s.accept op rd rs1 rs2).sstate = (if op = 7#4 then .fInit else .exec) := rfl
@[simp] theorem State.accept_opl (op : BitVec 4) (rd rs1 rs2 : RegId) :
    (s.accept op rd rs1 rs2).opl = op := rfl
@[simp] theorem State.accept_rdl (op : BitVec 4) (rd rs1 rs2 : RegId) :
    (s.accept op rd rs1 rs2).rdl = rd := rfl
@[simp] theorem State.accept_rs1l (op : BitVec 4) (rd rs1 rs2 : RegId) :
    (s.accept op rd rs1 rs2).rs1l = rs1 := rfl
@[simp] theorem State.accept_rs2l (op : BitVec 4) (rd rs1 rs2 : RegId) :
    (s.accept op rd rs1 rs2).rs2l = rs2 := rfl
@[simp] theorem State.accept_kl (op : BitVec 4) (rd rs1 rs2 : RegId) :
    (s.accept op rd rs1 rs2).kl = (if op = 7#4 then s.k else s.kl) := rfl
@[simp] theorem State.accept_p (op : BitVec 4) (rd rs1 rs2 : RegId) :
    (s.accept op rd rs1 rs2).p = s.p := rfl
@[simp] theorem State.accept_low (op : BitVec 4) (rd rs1 rs2 : RegId) :
    (s.accept op rd rs1 rs2).low = s.low := rfl
@[simp] theorem State.accept_high (op : BitVec 4) (rd rs1 rs2 : RegId) :
    (s.accept op rd rs1 rs2).high = s.high := rfl
@[simp] theorem State.accept_t1 (op : BitVec 4) (rd rs1 rs2 : RegId) :
    (s.accept op rd rs1 rs2).t1 = s.t1 := rfl
@[simp] theorem State.accept_t2 (op : BitVec 4) (rd rs1 rs2 : RegId) :
    (s.accept op rd rs1 rs2).t2 = s.t2 := rfl
@[simp] theorem State.accept_f2n (op : BitVec 4) (rd rs1 rs2 : RegId) :
    (s.accept op rd rs1 rs2).f2n = s.f2n := rfl
@[simp] theorem State.accept_sql (op : BitVec 4) (rd rs1 rs2 : RegId) :
    (s.accept op rd rs1 rs2).sql = s.sql := rfl
@[simp] theorem State.accept_sqh (op : BitVec 4) (rd rs1 rs2 : RegId) :
    (s.accept op rd rs1 rs2).sqh = s.sqh := rfl
@[simp] theorem State.accept_f2n1 (op : BitVec 4) (rd rs1 rs2 : RegId) :
    (s.accept op rd rs1 rs2).f2n1 = s.f2n1 := rfl
@[simp] theorem State.accept_hrdata (op : BitVec 4) (rd rs1 rs2 : RegId) :
    (s.accept op rd rs1 rs2).hrdata = s.hrdata := rfl
@[simp] theorem State.accept_policy (op : BitVec 4) (rd rs1 rs2 : RegId) :
    (s.accept op rd rs1 rs2).policy = s.policy := rfl
@[simp] theorem State.accept_draws (op : BitVec 4) (rd rs1 rs2 : RegId) :
    (s.accept op rd rs1 rs2).draws = s.draws := rfl
@[simp] theorem State.accept_host (op : BitVec 4) (rd rs1 rs2 : RegId) :
    (s.accept op rd rs1 rs2).host = s.host := rfl
@[simp] theorem State.accept_env (op : BitVec 4) (rd rs1 rs2 : RegId) :
    (s.accept op rd rs1 rs2).env = s.env := rfl
@[simp] theorem State.accept_reads (op : BitVec 4) (rd rs1 rs2 : RegId) :
    (s.accept op rd rs1 rs2).reads = s.reads := rfl

@[simp] theorem State.busEnd_regs (l : List HostOp) (d : Option Word) :
    (s.busEnd l d).regs = s.regs := rfl
@[simp] theorem State.busEnd_busy (l : List HostOp) (d : Option Word) :
    (s.busEnd l d).busy = s.busy := rfl
@[simp] theorem State.busEnd_done (l : List HostOp) (d : Option Word) :
    (s.busEnd l d).done = s.done := rfl
@[simp] theorem State.busEnd_eq (l : List HostOp) (d : Option Word) :
    (s.busEnd l d).eq = s.eq := rfl
@[simp] theorem State.busEnd_err (l : List HostOp) (d : Option Word) :
    (s.busEnd l d).err = s.err := rfl
@[simp] theorem State.busEnd_k (l : List HostOp) (d : Option Word) :
    (s.busEnd l d).k = s.k := rfl
@[simp] theorem State.busEnd_sstate (l : List HostOp) (d : Option Word) :
    (s.busEnd l d).sstate = s.sstate := rfl
@[simp] theorem State.busEnd_opl (l : List HostOp) (d : Option Word) :
    (s.busEnd l d).opl = s.opl := rfl
@[simp] theorem State.busEnd_rdl (l : List HostOp) (d : Option Word) :
    (s.busEnd l d).rdl = s.rdl := rfl
@[simp] theorem State.busEnd_rs1l (l : List HostOp) (d : Option Word) :
    (s.busEnd l d).rs1l = s.rs1l := rfl
@[simp] theorem State.busEnd_rs2l (l : List HostOp) (d : Option Word) :
    (s.busEnd l d).rs2l = s.rs2l := rfl
@[simp] theorem State.busEnd_kl (l : List HostOp) (d : Option Word) :
    (s.busEnd l d).kl = s.kl := rfl
@[simp] theorem State.busEnd_p (l : List HostOp) (d : Option Word) :
    (s.busEnd l d).p = s.p := rfl
@[simp] theorem State.busEnd_low (l : List HostOp) (d : Option Word) :
    (s.busEnd l d).low = s.low := rfl
@[simp] theorem State.busEnd_high (l : List HostOp) (d : Option Word) :
    (s.busEnd l d).high = s.high := rfl
@[simp] theorem State.busEnd_t1 (l : List HostOp) (d : Option Word) :
    (s.busEnd l d).t1 = s.t1 := rfl
@[simp] theorem State.busEnd_t2 (l : List HostOp) (d : Option Word) :
    (s.busEnd l d).t2 = s.t2 := rfl
@[simp] theorem State.busEnd_f2n (l : List HostOp) (d : Option Word) :
    (s.busEnd l d).f2n = s.f2n := rfl
@[simp] theorem State.busEnd_sql (l : List HostOp) (d : Option Word) :
    (s.busEnd l d).sql = s.sql := rfl
@[simp] theorem State.busEnd_sqh (l : List HostOp) (d : Option Word) :
    (s.busEnd l d).sqh = s.sqh := rfl
@[simp] theorem State.busEnd_f2n1 (l : List HostOp) (d : Option Word) :
    (s.busEnd l d).f2n1 = s.f2n1 := rfl
@[simp] theorem State.busEnd_hrdata (l : List HostOp) (d : Option Word) :
    (s.busEnd l d).hrdata = d := rfl
@[simp] theorem State.busEnd_policy (l : List HostOp) (d : Option Word) :
    (s.busEnd l d).policy = s.policy := rfl
@[simp] theorem State.busEnd_draws (l : List HostOp) (d : Option Word) :
    (s.busEnd l d).draws = s.draws := rfl
@[simp] theorem State.busEnd_host (l : List HostOp) (d : Option Word) :
    (s.busEnd l d).host = hostRest (d.getD 0) l := rfl
@[simp] theorem State.busEnd_env (l : List HostOp) (d : Option Word) :
    (s.busEnd l d).env = s.env := rfl
@[simp] theorem State.busEnd_reads (l : List HostOp) (d : Option Word) :
    (s.busEnd l d).reads = d.toList ++ s.reads := rfl

/-- The one thing `raise` changes is ERR, and only from NONE (R163). -/
theorem State.raise_record (code : ErrCode) :
    s.raise code = { s with err := if s.err = .none then code else s.err } := by
  unfold State.raise; split <;> simp_all

@[simp] theorem State.raise_regs (code : ErrCode) : (s.raise code).regs = s.regs := by
  rw [s.raise_record]
@[simp] theorem State.raise_busy (code : ErrCode) : (s.raise code).busy = s.busy := by
  rw [s.raise_record]
@[simp] theorem State.raise_done (code : ErrCode) : (s.raise code).done = s.done := by
  rw [s.raise_record]
@[simp] theorem State.raise_eq (code : ErrCode) : (s.raise code).eq = s.eq := by
  rw [s.raise_record]
@[simp] theorem State.raise_err (code : ErrCode) : (s.raise code).err = (if s.err = .none then code else s.err) := by
  rw [s.raise_record]
@[simp] theorem State.raise_k (code : ErrCode) : (s.raise code).k = s.k := by
  rw [s.raise_record]
@[simp] theorem State.raise_sstate (code : ErrCode) : (s.raise code).sstate = s.sstate := by
  rw [s.raise_record]
@[simp] theorem State.raise_opl (code : ErrCode) : (s.raise code).opl = s.opl := by
  rw [s.raise_record]
@[simp] theorem State.raise_rdl (code : ErrCode) : (s.raise code).rdl = s.rdl := by
  rw [s.raise_record]
@[simp] theorem State.raise_rs1l (code : ErrCode) : (s.raise code).rs1l = s.rs1l := by
  rw [s.raise_record]
@[simp] theorem State.raise_rs2l (code : ErrCode) : (s.raise code).rs2l = s.rs2l := by
  rw [s.raise_record]
@[simp] theorem State.raise_kl (code : ErrCode) : (s.raise code).kl = s.kl := by
  rw [s.raise_record]
@[simp] theorem State.raise_p (code : ErrCode) : (s.raise code).p = s.p := by
  rw [s.raise_record]
@[simp] theorem State.raise_low (code : ErrCode) : (s.raise code).low = s.low := by
  rw [s.raise_record]
@[simp] theorem State.raise_high (code : ErrCode) : (s.raise code).high = s.high := by
  rw [s.raise_record]
@[simp] theorem State.raise_t1 (code : ErrCode) : (s.raise code).t1 = s.t1 := by
  rw [s.raise_record]
@[simp] theorem State.raise_t2 (code : ErrCode) : (s.raise code).t2 = s.t2 := by
  rw [s.raise_record]
@[simp] theorem State.raise_f2n (code : ErrCode) : (s.raise code).f2n = s.f2n := by
  rw [s.raise_record]
@[simp] theorem State.raise_sql (code : ErrCode) : (s.raise code).sql = s.sql := by
  rw [s.raise_record]
@[simp] theorem State.raise_sqh (code : ErrCode) : (s.raise code).sqh = s.sqh := by
  rw [s.raise_record]
@[simp] theorem State.raise_f2n1 (code : ErrCode) : (s.raise code).f2n1 = s.f2n1 := by
  rw [s.raise_record]
@[simp] theorem State.raise_hrdata (code : ErrCode) : (s.raise code).hrdata = s.hrdata := by
  rw [s.raise_record]
@[simp] theorem State.raise_policy (code : ErrCode) : (s.raise code).policy = s.policy := by
  rw [s.raise_record]
@[simp] theorem State.raise_draws (code : ErrCode) : (s.raise code).draws = s.draws := by
  rw [s.raise_record]
@[simp] theorem State.raise_host (code : ErrCode) : (s.raise code).host = s.host := by
  rw [s.raise_record]
@[simp] theorem State.raise_env (code : ErrCode) : (s.raise code).env = s.env := by
  rw [s.raise_record]
@[simp] theorem State.raise_reads (code : ErrCode) : (s.raise code).reads = s.reads := by
  rw [s.raise_record]

@[simp] theorem State.reg_setReg_self (r : RegId) (X : BigNum) : (s.setReg r X).reg r = X := by
  simp [State.reg]

theorem State.reg_setReg_ne {r q : RegId} (h : q ≠ r) (X : BigNum) :
    (s.setReg r X).reg q = s.reg q := by
  have : r.val ≠ q.val := fun e => h (Fin.ext e.symm)
  simp [State.reg, this]

theorem State.reg_setReg (r q : RegId) (X : BigNum) :
    (s.setReg r X).reg q = if q = r then X else s.reg q := by
  split
  · next h => rw [h, State.reg_setReg_self]
  · next h => rw [State.reg_setReg_ne s h]

/-- Two register files are equal when every register is. -/
theorem regs_ext {a b : State} (h : ∀ r, a.reg r = b.reg r) : a.regs = b.regs :=
  Vector.ext fun i hi => h ⟨i, hi⟩

end

end Sys2Proof.Machine
end

