-- ==== Sys2Proof/Laws/Port.lean ====
section
/-! SUPPORT. The port's address map (20_memory.md R52, R53) case by case, and what a host write
does to a machine that is idle or has a command in flight. -/

namespace Sys2Proof.Machine

theorem byteAddr_portAddr (b : Nat) (h : b < 0x1000) (h4 : b % 4 = 0) :
    byteAddr (portAddr b) = b := by
  simp [byteAddr, portAddr]; omega

theorem byteAddr_limbAddr (r : RegId) (i : LimbId) :
    byteAddr (limbAddr r i) = 0x100 + 0x20 * r.val + 4 * i.val := by
  have := r.isLt
  have := i.isLt
  exact byteAddr_portAddr _ (by omega) (by omega)

@[simp] theorem target_limbAddr (r : RegId) (i : LimbId) : target (limbAddr r i) = .limb r i := by
  revert r i; decide

@[simp] theorem target_cmdAddr : target cmdAddr = .cmd := by decide
@[simp] theorem target_statusAddr : target statusAddr = .status := by decide
@[simp] theorem target_kLoAddr : target kLoAddr = .kLo := by decide
@[simp] theorem target_kHiAddr : target kHiAddr = .kHi := by decide

/-- Only one word is each limb. -/
theorem eq_limbAddr {a : PortAddr} {r : RegId} {i : LimbId} (h : target a = .limb r i) :
    a = limbAddr r i := by
  revert h; revert a r i; decide +kernel

theorem eq_statusAddr {a : PortAddr} (h : target a = .status) : a = statusAddr := by
  revert h; revert a; decide +kernel

/-- The address map against the address ranges of R52 and R162. -/
theorem target_cases (a : PortAddr) :
    ((target a = .id ∨ target a = .reserved) ∧ addrByte (byteAddr a) = true) ∨
    (addrByte (byteAddr a) = false ∧
      ((target a = .cmd ∧ byteAddr a = 4 ∧ limbByte (byteAddr a) = false) ∨
        (target a = .status ∧ byteAddr a = 8 ∧ limbByte (byteAddr a) = false) ∨
        ((target a = .kLo ∨ target a = .kHi) ∧ byteAddr a ≠ 4 ∧ byteAddr a ≠ 8 ∧
          limbByte (byteAddr a) = false) ∨
        ((∃ r i, target a = .limb r i) ∧ byteAddr a ≠ 4 ∧ byteAddr a ≠ 8 ∧
          limbByte (byteAddr a) = true))) := by
  revert a; decide +kernel

/-- A write to a machine with a command in flight changes at most ERR (R34, R165). -/
theorem portWrite_busy {s : State} (h : s.busy = true) (a : PortAddr) (w : Word) :
    s.portWrite a w =
      if a = statusAddr then s.clearErr
      else if addrByte (byteAddr a) then s.raise .addr else s.raise .busy := by
  rcases target_cases a with ⟨ht | ht, hb⟩ | ⟨hb, ⟨ht, _⟩ | ⟨ht, _⟩ | ⟨ht | ht, _⟩ | ⟨⟨r, i, ht⟩, _⟩⟩
  case inr.inr.inl => obtain rfl := eq_statusAddr ht; simp [State.portWrite]
  all_goals
    have hs : a ≠ statusAddr := by rintro rfl; simp at ht
    simp [State.portWrite, State.writeCmd, State.writeKLo, State.writeKHi, State.writeLimb, ht, hb,
      hs, h]

/-- The host's side of a cycle that presents a write. -/
theorem hostEdge_write {s : State} {a : PortAddr} {w : Word} {rest : List HostOp}
    (h : s.host = .write a w :: rest) :
    s.hostEdge =
      { s.portWrite a w with
        host := rest, env := (s.portWrite a w).env.tail, hrdata := none } := by
  simp [State.hostEdge, State.busWrite, State.readNow, h, State.busEnd, State.popEnv, hostRest]

theorem getLsbD_append_words (x y : Word) (j : Nat) :
    BitVec.getLsbD (w := 64) (x ++ y) j = if j < 32 then y.getLsbD j else x.getLsbD (j - 32) :=
  BitVec.getLsbD_append

theorem low_append_words (x y : Word) : BitVec.extractLsb' (n := 64) 0 32 (x ++ y) = y := by
  apply BitVec.eq_of_getLsbD_eq
  intro j hj
  rw [BitVec.getLsbD_extractLsb', getLsbD_append_words]
  simp [hj]

theorem high_append_words (x y : Word) : BitVec.extractLsb' (n := 64) 32 32 (x ++ y) = x := by
  apply BitVec.eq_of_getLsbD_eq
  intro j hj
  rw [BitVec.getLsbD_extractLsb', getLsbD_append_words]
  simp [hj]

@[simp] theorem kLo_setKLo (s : State) (w : Word) : (s.setKLo w).kLo = w := low_append_words _ _
@[simp] theorem kHi_setKLo (s : State) (w : Word) : (s.setKLo w).kHi = s.kHi := high_append_words _ _
@[simp] theorem kHi_setKHi (s : State) (w : Word) : (s.setKHi w).kHi = w := high_append_words _ _
@[simp] theorem kLo_setKHi (s : State) (w : Word) : (s.setKHi w).kLo = s.kLo := low_append_words _ _

end Sys2Proof.Machine
end

