-- ==== Sys2Proof/Laws/Units.lean ====
section
/-! SUPPORT. What each chain of the datapath units computes on limb lists (40_fixedbignumber.md R91,
R93, R98), in any number of limbs: its length, the range of its digits, its value. -/

namespace Sys2Proof

theorem addChain_length {xs ys : List Nat} (c : Nat) (h : xs.length = ys.length) :
    (addChain c xs ys).length = xs.length := by
  induction xs generalizing ys c with
  | nil => simp [addChain]
  | cons x xs ih =>
    cases ys with
    | nil => simp at h
    | cons y ys => simp [addChain, ih _ (by simpa using h)]

theorem addChain_digits (c : Nat) (xs ys : List Nat) : Digits (addChain c xs ys) := by
  induction xs generalizing ys c with
  | nil => intro x hx; simp [addChain] at hx
  | cons x xs ih =>
    cases ys with
    | nil => intro x hx; simp [addChain] at hx
    | cons y ys =>
      intro z hz
      rcases List.mem_cons.mp hz with rfl | hz
      · exact Nat.mod_lt _ (by decide)
      · exact ih _ _ z hz

theorem addChain_val {xs ys : List Nat} (c : Nat) (h : xs.length = ys.length) :
    digitsVal (addChain c xs ys) =
      (c + digitsVal xs + digitsVal ys) % Config.base ^ xs.length := by
  induction xs generalizing ys c with
  | nil => cases ys <;> simp_all [addChain, digitsVal, Nat.mod_one]
  | cons x xs ih =>
    cases ys with
    | nil => simp at h
    | cons y ys =>
      simp only [addChain, digitsVal, List.length_cons]
      rw [ih _ (by simpa using h), pow_succ', Nat.mod_mul]
      have e : c + (x + Config.base * digitsVal xs) + (y + Config.base * digitsVal ys) =
          (c + x + y) + Config.base * (digitsVal xs + digitsVal ys) := by ring
      rw [e, Nat.add_mul_mod_self_left, Nat.add_mul_div_left _ _ (by decide), ← Nat.add_assoc]

theorem subChain_length {xs ys : List Nat} (b : Nat) (h : xs.length = ys.length) :
    (subChain b xs ys).length = xs.length := by
  induction xs generalizing ys b with
  | nil => simp [subChain]
  | cons x xs ih =>
    cases ys with
    | nil => simp at h
    | cons y ys =>
      rw [subChain]
      split <;> simp [ih _ (List.length_cons ▸ List.length_cons ▸ h |> Nat.succ.inj)]

theorem subChain_digits {xs ys : List Nat} {b : Nat} (hb : b ≤ 1) (hx : Digits xs)
    (hy : Digits ys) : Digits (subChain b xs ys) := by
  induction xs generalizing ys b with
  | nil => intro x h; simp [subChain] at h
  | cons x xs ih =>
    cases ys with
    | nil => intro x h; simp [subChain] at h
    | cons y ys =>
      have hx0 : x < Config.base := hx x (by simp)
      have hy0 : y < Config.base := hy y (by simp)
      have tx : Digits xs := fun z hz => hx z (by simp [hz])
      have ty : Digits ys := fun z hz => hy z (by simp [hz])
      rw [subChain]
      split <;> intro z hz <;> rcases List.mem_cons.mp hz with rfl | hz
      · omega
      · exact ih (by decide) tx ty z hz
      · omega
      · exact ih (by decide) tx ty z hz

theorem borrowOut_le {xs ys : List Nat} {b : Nat} (hb : b ≤ 1) : borrowOut b xs ys ≤ 1 := by
  induction xs generalizing ys b with
  | nil => simpa [borrowOut] using hb
  | cons x xs ih =>
    cases ys with
    | nil => simpa [borrowOut] using hb
    | cons y ys => rw [borrowOut]; exact ih (by split <;> decide)

/-- The digits of the borrow chain with its dropped borrow: nothing else is lost. -/
theorem subChain_val {xs ys : List Nat} {b : Nat} (hb : b ≤ 1) (hx : Digits xs) (hy : Digits ys)
    (h : xs.length = ys.length) :
    digitsVal (subChain b xs ys) + digitsVal ys + b =
      digitsVal xs + Config.base ^ xs.length * borrowOut b xs ys := by
  induction xs generalizing ys b with
  | nil => cases ys <;> simp_all [subChain, digitsVal, borrowOut]
  | cons x xs ih =>
    cases ys with
    | nil => simp at h
    | cons y ys =>
      have hx0 : x < Config.base := hx x (by simp)
      have hy0 : y < Config.base := hy y (by simp)
      have tx : Digits xs := fun z hz => hx z (by simp [hz])
      have ty : Digits ys := fun z hz => hy z (by simp [hz])
      have hl : xs.length = ys.length := by simpa using h
      rw [subChain, borrowOut]
      split
      · have e := ih (b := 1) (by decide) tx ty hl
        simp only [digitsVal, List.length_cons, pow_succ']
        rw [Nat.mul_assoc]
        simp only [Config.base] at *
        omega
      · have e := ih (b := 0) (by decide) tx ty hl
        simp only [digitsVal, List.length_cons, pow_succ']
        rw [Nat.mul_assoc]
        simp only [Config.base] at *
        omega

theorem mulRow_length {zs ys : List Nat} (x c : Nat) (h : zs.length ≤ ys.length) :
    (mulRow x c zs ys).length = zs.length := by
  induction zs generalizing ys c with
  | nil => simp [mulRow]
  | cons z zs ih =>
    cases ys with
    | nil => simp at h
    | cons y ys => simp [mulRow, ih _ (by simpa using h)]

theorem mulRow_digits (x c : Nat) (zs ys : List Nat) : Digits (mulRow x c zs ys) := by
  induction zs generalizing ys c with
  | nil => intro x hx; simp [mulRow] at hx
  | cons z zs ih =>
    cases ys with
    | nil => intro x hx; simp [mulRow] at hx
    | cons y ys =>
      intro w hw
      rcases List.mem_cons.mp hw with rfl | hw
      · exact Nat.mod_lt _ (by decide)
      · exact ih _ _ w hw

/-- A row adds `x` times the multiplicand and the carry, less what would pass its last position. -/
theorem mulRow_val {zs ys : List Nat} (x c : Nat) (h : zs.length ≤ ys.length) :
    digitsVal (mulRow x c zs ys) =
      (digitsVal zs + x * digitsVal ys + c) % Config.base ^ zs.length := by
  induction zs generalizing ys c with
  | nil => simp [mulRow, digitsVal, Nat.mod_one]
  | cons z zs ih =>
    cases ys with
    | nil => simp at h
    | cons y ys =>
      simp only [mulRow, digitsVal, List.length_cons]
      rw [ih _ (by simpa using h), pow_succ', Nat.mod_mul]
      have e : z + Config.base * digitsVal zs + x * (y + Config.base * digitsVal ys) + c =
          (z + x * y + c) + Config.base * (digitsVal zs + x * digitsVal ys) := by ring
      rw [e, Nat.add_mul_mod_self_left, Nat.add_mul_div_left _ _ (by decide),
        Nat.add_comm ((z + x * y + c) / Config.base)]

theorem mulRows_length {xs zs ys : List Nat} (hx : xs.length = zs.length)
    (hy : zs.length ≤ ys.length) : (mulRows ys xs zs).length = zs.length := by
  induction xs generalizing zs with
  | nil => simpa [mulRows] using hx
  | cons x xs ih =>
    have hl := mulRow_length x 0 hy
    rw [mulRows]
    split
    · next e => rw [e] at hl; simpa using hl
    · next z rest e =>
      rw [e] at hl
      have hr : rest.length + 1 = zs.length := by simpa using hl
      have hx' : xs.length + 1 = zs.length := by simpa using hx
      simp only [List.length_cons]
      rw [ih (by omega) (by omega), hr]

theorem mulRows_digits (xs zs ys : List Nat) : Digits (mulRows ys xs zs) := by
  induction xs generalizing zs with
  | nil => intro x hx; simp [mulRows] at hx
  | cons x xs ih =>
    have hd := mulRow_digits x 0 zs ys
    rw [mulRows]
    split
    · intro w hw; simp at hw
    · next z rest e =>
      rw [e] at hd
      intro w hw
      rcases List.mem_cons.mp hw with rfl | hw
      · exact hd _ (by simp)
      · exact ih _ w hw

/-- The rows accumulate the product into `zs`, less what would pass its last position. -/
theorem mulRows_val {xs zs ys : List Nat} (hx : xs.length = zs.length)
    (hy : zs.length ≤ ys.length) :
    digitsVal (mulRows ys xs zs) =
      (digitsVal zs + digitsVal xs * digitsVal ys) % Config.base ^ zs.length := by
  induction xs generalizing zs with
  | nil =>
    have : zs = [] := List.length_eq_zero_iff.mp (by simpa using hx.symm)
    simp [this, mulRows, digitsVal, Nat.mod_one]
  | cons x xs ih =>
    have hl := mulRow_length x 0 hy
    have hv := mulRow_val x 0 hy
    rw [mulRows]
    split
    · next e =>
      rw [e] at hl
      have : zs = [] := List.length_eq_zero_iff.mp (by simpa using hl.symm)
      simp [this] at hx
    · next z rest e =>
      rw [e] at hl hv
      have hr : rest.length + 1 = zs.length := by simpa using hl
      have hx' : xs.length + 1 = zs.length := by simpa using hx
      have hd : Digits (z :: rest) := by rw [← e]; exact mulRow_digits x 0 zs ys
      have hz : z < Config.base := hd z (by simp)
      simp only [digitsVal] at hv ⊢
      rw [ih (by omega) (by omega)]
      rw [← hr, pow_succ'] at hv ⊢
      set P := Config.base ^ rest.length with hP
      have key : (digitsVal zs + (x + Config.base * digitsVal xs) * digitsVal ys) %
          (Config.base * P) = ((z + Config.base * digitsVal rest) +
            Config.base * (digitsVal xs * digitsVal ys)) % (Config.base * P) := by
        rw [hv, Nat.add_zero, Nat.mod_add_mod]
        congr 1
        ring
      rw [key, Nat.mod_mul]
      have e2 : z + Config.base * digitsVal rest + Config.base * (digitsVal xs * digitsVal ys) =
          z + Config.base * (digitsVal rest + digitsVal xs * digitsVal ys) := by ring
      rw [e2, Nat.add_mul_mod_self_left, Nat.mod_eq_of_lt hz, Nat.add_mul_div_left _ _ (by decide),
        Nat.div_eq_of_lt hz, Nat.zero_add]

theorem addu_canon (X Y : BigNum) : (addu X Y).Canon :=
  BigNum.canon_ofNats (by rw [addChain_length _ (by simp)]; simp) (addChain_digits _ _ _)

theorem mulu_canon (X Y : BigNum) : (mulu X Y).Canon :=
  BigNum.canon_ofNats (by rw [mulRows_length (by simp) (by simp)]; simp) (mulRows_digits _ _ _)

theorem subuDp_canon {X Y : BigNum} (hX : X.Canon) (hY : Y.Canon) : (subuDp X Y).Canon :=
  BigNum.canon_ofNats (by rw [subChain_length _ (by simp)]; simp)
    (subChain_digits (by decide) ((BigNum.canon_iff X).mp hX) ((BigNum.canon_iff Y).mp hY))

theorem subu_canon {X Y : BigNum} (policy : UnderflowPolicy) (n : Nat) (hX : X.Canon)
    (hY : Y.Canon) : (subu policy n X Y).1.Canon := by
  rw [subu]
  split
  · cases policy
    · exact drawnBig_canon n
    · exact subuDp_canon hX hY
  · exact subuDp_canon hX hY

/-- SUBU draws only where it underflows under `draw`. -/
theorem subu_draws (policy : UnderflowPolicy) (n : Nat) (X Y : BigNum) :
    (subu policy n X Y).2 = if underflows X Y ∧ policy = .draw then n + 1 else n := by
  cases policy <;> simp only [subu, subUnderflow] <;> split <;> simp_all

end Sys2Proof
end

