-- ==== Sys2Proof/Laws/Sequencer.lean ====
section
/-! SUPPORT. What an FSM transition and a run of transitions can do (41_fast_doubling.md R137). -/

namespace Sys2Proof.Machine

/-- The fields a transition of the FSM never writes. -/
structure SeqFrame (s t : State) : Prop where
  regs : t.regs = s.regs
  busy : t.busy = s.busy
  done : t.done = s.done
  eq : t.eq = s.eq
  err : t.err = s.err
  k : t.k = s.k
  opl : t.opl = s.opl
  rdl : t.rdl = s.rdl
  rs1l : t.rs1l = s.rs1l
  rs2l : t.rs2l = s.rs2l
  kl : t.kl = s.kl
  hrdata : t.hrdata = s.hrdata
  policy : t.policy = s.policy
  host : t.host = s.host
  env : t.env = s.env
  reads : t.reads = s.reads

theorem SeqFrame.refl (s : State) : SeqFrame s s := by constructor <;> rfl

theorem SeqFrame.trans {s t u : State} (h : SeqFrame s t) (h' : SeqFrame t u) : SeqFrame s u where
  regs := h'.regs.trans h.regs
  busy := h'.busy.trans h.busy
  done := h'.done.trans h.done
  eq := h'.eq.trans h.eq
  err := h'.err.trans h.err
  k := h'.k.trans h.k
  opl := h'.opl.trans h.opl
  rdl := h'.rdl.trans h.rdl
  rs1l := h'.rs1l.trans h.rs1l
  rs2l := h'.rs2l.trans h.rs2l
  kl := h'.kl.trans h.kl
  hrdata := h'.hrdata.trans h.hrdata
  policy := h'.policy.trans h.policy
  host := h'.host.trans h.host
  env := h'.env.trans h.env
  reads := h'.reads.trans h.reads

theorem SeqFrame.inflight {s t : State} (h : SeqFrame s t) : t.inflight = s.inflight := by
  simp only [State.inflight, h.opl, h.rdl, h.rs1l, h.rs2l]

/-- F_ADV, field by field. -/
theorem seqAdvance_record (s : State) :
    s.seqAdvance = { s with
      low := if s.kl.getLsbD s.p.toNat then s.f2n1 else s.f2n
      high := if s.kl.getLsbD s.p.toNat then addu s.f2n1 s.f2n else s.f2n1
      sstate := .fNext } := by
  unfold State.seqAdvance; split <;> rfl

/-- F_NEXT, field by field. -/
theorem seqNext_record (s : State) :
    s.seqNext = { s with
      p := if s.p = 0#6 then s.p else s.p - 1#6
      sstate := if s.p = 0#6 then .commit else .fMul2 } := by
  unfold State.seqNext; split <;> rfl

theorem fsmStep_frame (s : State) : SeqFrame s s.fsmStep := by
  unfold State.fsmStep
  split
  case h_3 => unfold State.seqInit; split <;> constructor <;> rfl
  case h_5 => unfold State.seqSub; constructor <;> rfl
  case h_10 => unfold State.seqAdvance; split <;> constructor <;> rfl
  case h_11 => unfold State.seqNext; split <;> constructor <;> rfl
  all_goals constructor <;> rfl

theorem runFsm_frame (n : Nat) (s : State) : SeqFrame s (State.runFsm n s) := by
  induction n generalizing s with
  | zero => exact SeqFrame.refl s
  | succ n ih =>
    rw [State.runFsm]
    split
    · exact SeqFrame.refl s
    · exact (fsmStep_frame s).trans (ih _)

theorem fsmStep_commit {s : State} (h : s.sstate = .commit) : s.fsmStep = s := by
  simp [State.fsmStep, h]

theorem runFsm_commit {s : State} (h : s.sstate = .commit) (n : Nat) : State.runFsm n s = s := by
  cases n <;> simp [State.runFsm, h]

/-- A run of transitions may be cut anywhere. -/
theorem runFsm_add (m n : Nat) (s : State) :
    State.runFsm (m + n) s = State.runFsm n (State.runFsm m s) := by
  induction m generalizing s with
  | zero => simp [State.runFsm]
  | succ m ih =>
    by_cases h : s.sstate = .commit
    · simp [runFsm_commit h]
    · rw [Nat.add_right_comm, State.runFsm, if_neg h, State.runFsm, if_neg h, ih]

/-- How many transitions are left before COMMIT (R136, R137): 8 a round, and the round in hand. -/
def SeqState.left (kl : BitVec 64) (p : Nat) : SeqState → Nat
  | .idle => 0
  | .exec => 1
  | .fInit => if kl = 0#64 then 1 else 1 + 8 * (topBit kl + 1)
  | .fMul2 => 8 * p + 8
  | .fSub => 8 * p + 7
  | .fMulD => 8 * p + 6
  | .fSqL => 8 * p + 5
  | .fSqH => 8 * p + 4
  | .fAddS => 8 * p + 3
  | .fAdv => 8 * p + 2
  | .fNext => 8 * p + 1
  | .commit => 0

/-- The transitions left of the run in hand. -/
def fsmLeft (s : State) : Nat := s.sstate.left s.kl s.p.toNat

theorem topBit_lt (k : BitVec 64) : topBit k < 64 := by
  by_cases h : k.toNat = 0
  · simp [topBit, h]
  · exact (Nat.log2_lt h).mpr k.isLt

/-- Every transition from a running state brings COMMIT one nearer. -/
theorem fsmLeft_fsmStep {s : State} (hi : s.sstate ≠ .idle) (hc : s.sstate ≠ .commit) :
    fsmLeft s.fsmStep + 1 = fsmLeft s ∧ s.fsmStep.sstate ≠ .idle := by
  have ht := topBit_lt s.kl
  cases hs : s.sstate
  case idle => exact absurd hs hi
  case commit => exact absurd hs hc
  case fInit =>
    by_cases hk : s.kl = 0#64
    · simp [State.fsmStep, hs, State.seqInit, fsmLeft, SeqState.left, hk]
    · simp [State.fsmStep, hs, State.seqInit, fsmLeft, SeqState.left, hk]
      omega
  case fAdv =>
    by_cases hb : s.kl.getLsbD s.p.toNat <;>
      simp [State.fsmStep, hs, State.seqAdvance, fsmLeft, SeqState.left, hb]
  case fNext =>
    by_cases hp : s.p = 0#6
    · simp [State.fsmStep, hs, State.seqNext, fsmLeft, SeqState.left, hp]
    · have hp' : s.p.toNat ≠ 0 := fun e => hp (BitVec.eq_of_toNat_eq (by simpa using e))
      have hl := s.p.isLt
      simp [State.fsmStep, hs, State.seqNext, fsmLeft, SeqState.left, hp]
      omega
  all_goals simp [State.fsmStep, hs, State.seqSub, fsmLeft, SeqState.left]

theorem fsmLeft_eq_zero {s : State} (hi : s.sstate ≠ .idle) (h : fsmLeft s = 0) :
    s.sstate = .commit := by
  by_contra hc
  have := fsmLeft_fsmStep hi hc
  omega

theorem runFsm_reaches (n : Nat) (s : State) (hi : s.sstate ≠ .idle) (h : fsmLeft s ≤ n) :
    (State.runFsm n s).sstate = .commit := by
  induction n generalizing s with
  | zero => exact fsmLeft_eq_zero hi (Nat.le_zero.mp h)
  | succ n ih =>
    by_cases hc : s.sstate = .commit
    · rw [runFsm_commit hc]; exact hc
    · have e := fsmLeft_fsmStep hi hc
      rw [State.runFsm, if_neg hc]
      exact ih _ e.2 (by omega)

theorem fsmLeft_le (s : State) : fsmLeft s ≤ fsmTransitions := by
  have ht := topBit_lt s.kl
  have hp := s.p.isLt
  unfold fsmLeft fsmTransitions
  cases s.sstate <;> simp only [SeqState.left] <;> (try split) <;> omega

/-- From every running state, FIB's run of transitions ends at COMMIT. -/
theorem runFsm_all (s : State) (hi : s.sstate ≠ .idle) :
    (State.runFsm fsmTransitions s).sstate = .commit :=
  runFsm_reaches _ s hi (fsmLeft_le s)

/-- Transitions made before do not change where FIB's run ends. -/
theorem runFsm_absorb (n : Nat) (s : State) (hi : s.sstate ≠ .idle) :
    State.runFsm fsmTransitions (State.runFsm n s) = State.runFsm fsmTransitions s := by
  rw [← runFsm_add, Nat.add_comm, runFsm_add, runFsm_commit (runFsm_all s hi)]

end Sys2Proof.Machine
end

