-- ==== Sys2Proof/Laws/Step.lean ====
section
/-! SUPPORT. Everything one step can do, said once (20_memory.md R51, 40_fixedbignumber.md R110,
70_reset_and_hazards.md R180). -/

namespace Sys2Proof.Machine

theorem step_reset {s : State} (h : s.now.rst = true) : step s = .next s.resetEdge := by
  simp [step, h]

theorem step_idle {s : State} (hr : s.now.rst = false) (hb : s.busy = false) :
    step s = .next s.hostEdge := by
  simp [step, hr, hb]

theorem step_busy {s : State} (hr : s.now.rst = false) (hb : s.busy = true) :
    step s = coreEdge s.now.core s.hostEdge := by
  simp [step, hr, hb]

/-- Every meaning answers a next state. -/
theorem exec_next (i : Instr) (s : State) : ∃ t, exec i s = .next t := by
  cases i <;> exact ⟨_, rfl⟩

/-- A command in flight at the start of a cycle is still in flight after the host's side of it. -/
structure BusyFrame (s h : State) : Prop where
  regs : h.regs = s.regs
  busy : h.busy = s.busy
  done : h.done = s.done
  eq : h.eq = s.eq
  k : h.k = s.k
  sstate : h.sstate = s.sstate
  opl : h.opl = s.opl
  rdl : h.rdl = s.rdl
  rs1l : h.rs1l = s.rs1l
  rs2l : h.rs2l = s.rs2l
  kl : h.kl = s.kl
  p : h.p = s.p
  low : h.low = s.low
  high : h.high = s.high
  t1 : h.t1 = s.t1
  t2 : h.t2 = s.t2
  f2n : h.f2n = s.f2n
  sql : h.sql = s.sql
  sqh : h.sqh = s.sqh
  f2n1 : h.f2n1 = s.f2n1
  policy : h.policy = s.policy
  draws : h.draws = s.draws
  env : h.env = s.env.tail

theorem busWrite_busy {s : State} (h : s.busy = true) : ∃ e, s.busWrite = { s with err := e } := by
  unfold State.busWrite
  split
  · rw [portWrite_busy h]
    split
    · exact ⟨_, rfl⟩
    · split <;> rw [State.raise_record] <;> exact ⟨_, rfl⟩
  · exact ⟨s.err, rfl⟩

theorem hostEdge_busy {s : State} (h : s.busy = true) : BusyFrame s s.hostEdge := by
  obtain ⟨e, he⟩ := busWrite_busy h
  unfold State.hostEdge
  rw [he]
  constructor <;> rfl

/-- Two states that agree but for the port's and the host's side. -/
theorem BusyFrame.inflight {s h : State} (f : BusyFrame s h) : h.inflight = s.inflight := by
  simp only [State.inflight, f.opl, f.rdl, f.rs1l, f.rs2l]

/-- Accepting a legal word latches the fields of the command it decodes to. -/
theorem acceptWord_decoded {s : State} {w : Word} {i : Instr} (h : decode w = .ok i) :
    s.acceptWord w = s.accept i.opcode i.rdField i.rs1Field i.rs2Field := by
  obtain ⟨-, h1, h2, h3, h4⟩ := decode_ok h
  simp [State.acceptWord, h1, h2, h3, h4]

/-- The transitions of the FSM and the host's side of the port do not see each other. -/
theorem runFsm_port (n : Nat) (s : State) (e : ErrCode) (host : List HostOp) (env : List EnvCycle)
    (data : Option Word) (reads : List Word) :
    State.runFsm n { s with err := e, host := host, env := env, hrdata := data, reads := reads } =
      { State.runFsm n s with err := e, host := host, env := env, hrdata := data, reads := reads } := by
  induction n generalizing s with
  | zero => rfl
  | succ n ih =>
    simp only [State.runFsm]
    split
    · rfl
    · rw [← ih]
      congr 1
      unfold State.fsmStep
      split <;> simp_all [State.seqInit, State.seqSub, seqAdvance_record, seqNext_record]
      split <;> rfl

/-- Nor do the meanings of the commands and the host's side of the port. -/
theorem exec_port {i : Instr} {s t : State} (h : exec i s = .next t) (e : ErrCode)
    (host : List HostOp) (env : List EnvCycle) (data : Option Word) (reads : List Word) :
    exec i { s with err := e, host := host, env := env, hrdata := data, reads := reads } =
      .next { t with err := e, host := host, env := env, hrdata := data, reads := reads } := by
  cases i
  case fib rd =>
    cases h
    simp only [exec, execFib, runFsm_port]
    rfl
  all_goals cases h; rfl

/-- Every meaning ends its command and leaves the host's and the environment's lists. -/
theorem exec_ends {i : Instr} {s t : State} (h : exec i s = .next t) :
    t.busy = false ∧ t.done = true ∧ t.sstate = .idle ∧ t.host = s.host ∧ t.env = s.env := by
  cases i
  case fib rd =>
    have f := runFsm_frame fsmTransitions s
    cases h
    exact ⟨rfl, rfl, rfl, f.host, f.env⟩
  all_goals cases h; exact ⟨rfl, rfl, rfl, rfl, rfl⟩

/-- A run of cycles may be cut anywhere. -/
theorem steps_add (m n : Nat) {s t : State} (h : steps m s = .next t) :
    steps (m + n) s = steps n t := by
  induction m generalizing s with
  | zero => cases h; simp
  | succ m ih =>
    rw [Nat.add_right_comm, steps]
    rw [steps] at h
    cases hs : step s with
    | next u => rw [hs] at h; exact ih h
    | fault _ => rw [hs] at h; cases h
    | refused _ => rw [hs] at h; cases h

/-- What a step that answers a next state was: a reset, a cycle of an idle machine, a cycle of a
command in flight, or a commit. -/
theorem step_cases {s t : State} (h : step s = .next t) :
    (s.now.rst = true ∧ t = s.resetEdge) ∨
    (s.now.rst = false ∧ s.busy = false ∧ t = s.hostEdge) ∨
    (s.now.rst = false ∧ s.busy = true ∧ ∃ n, s.now.core = .work n ∧ t = State.runFsm n s.hostEdge) ∨
    (s.now.rst = false ∧ s.busy = true ∧ s.now.core = .finish ∧
      ∃ i, s.inflight = .ok i ∧ exec i s.hostEdge = .next t) := by
  cases hr : s.now.rst
  case true => rw [step_reset hr] at h; cases h; exact .inl ⟨rfl, rfl⟩
  case false =>
    cases hb : s.busy
    case false => rw [step_idle hr hb] at h; cases h; exact .inr (.inl ⟨rfl, rfl, rfl⟩)
    case true =>
      rw [step_busy hr hb] at h
      cases hc : s.now.core
      case work n =>
        rw [hc] at h
        cases h
        exact .inr (.inr (.inl ⟨rfl, rfl, n, rfl, rfl⟩))
      case finish =>
        rw [hc, coreEdge, (hostEdge_busy hb).inflight] at h
        cases hi : s.inflight with
        | error e => simp [hi] at h
        | ok i => exact .inr (.inr (.inr ⟨rfl, rfl, rfl, i, rfl, by simpa [hi] using h⟩))

end Sys2Proof.Machine
end

