-- ==== Sys2Proof/Tests/Slice0.lean ====
section
/-! SUPPORT. Tests with expected results from the spec (30_encoding.md R80, 95_test_vectors.md section 2),
and for every obligation with hypotheses a state and operands that meet them together. -/

namespace Sys2Proof.Tests

set_option Elab.async false

open Sys2Proof.Machine

/-! ### Helpers -/

/-- The big number with the limbs of a list, limb 0 first; the limbs past its end are 0. -/
def limbs (l : List Nat) : BigNum := BigNum.ofNats l

/-- Every limb BASE - 1: the value M - 1. -/
def allNines : BigNum := limbs (List.replicate 8 99999999)

/-- The reset state with the four big registers and the policy given. -/
def holding (r0 r1 r2 r3 : BigNum) (policy : UnderflowPolicy := .draw) : State :=
  { State.reset with regs := #v[r0, r1, r2, r3], policy := policy }

/-- The reset state with FIB R`rd` of `k` just accepted. -/
def fibAccepted (rd : RegId) (k : BitVec 64) (policy : UnderflowPolicy := .draw) : State :=
  State.accept { State.reset with k := k, policy := policy } 7#4 rd 0 0

/-- The reset state with the host's operations and the environment's cycles given. -/
def hosted (host : List HostOp) (env : List EnvCycle := []) : State :=
  { State.reset with host := host, env := env }

/-- A FIB R1 of 10 in the middle of a round, with the host polling. -/
def midRound : State :=
  { fibAccepted 1 10 with
    sstate := .fSqL, p := 2, low := limbs [1], high := limbs [2], f2n := limbs [3],
    regs := #v[allNines, zeroBig, oneBig, twoBig], host := [.wait], env := [⟨false, .work 3⟩] }

/-- The next state, if there is one. -/
def nextOf : Result → Option State
  | .next s => some s
  | .fault _ => none
  | .refused _ => none

/-- The value of a big register in the next state. -/
def regAfter (r : Result) (q : RegId) : Option BigNum := (nextOf r).map fun s => s.reg q

/-- STATUS in the next state. -/
def statusAfter (r : Result) : Option Word := (nextOf r).map State.statusWord

/-- What a word decodes to, if it is a command. -/
def decoded (w : Word) : Option Instr := decodeTableWord 32 w.toNat

/-- Why a word is illegal, if it is. -/
def illegal (w : Word) : Option DecodeError :=
  match decode w with
  | .ok _ => none
  | .error e => some e

/-! ### Well-formedness: each check refuses an ill-formed term (R72, R74, R78, R79) -/

theorem test_wf_legal : (CmdFields.wellFormed ⟨1#4, 2, 0, 1, 0#22⟩) = true := by decide
theorem test_wf_reserved : (CmdFields.reservedZero ⟨1#4, 2, 0, 1, 1#22⟩) = false := by decide
theorem test_wf_opcode_zero : (CmdFields.opcodeLegal ⟨0#4, 0, 0, 0, 0#22⟩) = false := by decide
theorem test_wf_opcode_eight : (CmdFields.opcodeLegal ⟨8#4, 0, 0, 0, 0#22⟩) = false := by decide
theorem test_wf_rd : (CmdFields.rdLegal ⟨5#4, 1, 0, 0, 0#22⟩) = false := by decide
theorem test_wf_rs1 : (CmdFields.rs1Legal ⟨7#4, 0, 1, 0, 0#22⟩) = false := by decide
theorem test_wf_rs2 : (CmdFields.rs2Legal ⟨4#4, 0, 0, 1, 0#22⟩) = false := by decide
theorem test_wf_all_checks_used :
    [(⟨1#4, 2, 0, 1, 1#22⟩ : CmdFields), ⟨8#4, 0, 0, 0, 0#22⟩, ⟨6#4, 1, 0, 0, 0#22⟩,
      ⟨7#4, 0, 1, 0, 0#22⟩, ⟨6#4, 0, 0, 1, 0#22⟩].any CmdFields.wellFormed = false := by decide
theorem test_wf_stmts :
    [(.wr 0x102 0 : Stmt), .wr 0x1000 0, .wr 0x100 (2 ^ 32), .rd 0x001, .word (2 ^ 32),
      .ldr 0 (10 ^ 64), .ldk (2 ^ 64), .fibk 0 (2 ^ 64)].any Stmt.wellFormed = false := by
  decide +kernel

/-! ### Decoding: words written bit by bit from R71, `b` RS2, `a` RS1, `d` RD, `o` OP -/

theorem test_decode_add :
    decoded 0b0000000000000000000000_01_00_10_0001#32 = some (.add 2 0 1) := by decide
theorem test_decode_sub :
    decoded 0b0000000000000000000000_10_01_00_0010#32 = some (.sub 0 1 2) := by decide
theorem test_decode_mul :
    decoded 0b0000000000000000000000_01_00_10_0011#32 = some (.mul 2 0 1) := by decide
theorem test_decode_copy :
    decoded 0b0000000000000000000000_00_10_01_0100#32 = some (.copy 1 2) := by decide
theorem test_decode_cmpeq :
    decoded 0b0000000000000000000000_11_11_00_0101#32 = some (.cmpeq 3 3) := by decide
theorem test_decode_iszero :
    decoded 0b0000000000000000000000_00_11_00_0110#32 = some (.iszero 3) := by decide
theorem test_decode_fib :
    decoded 0b0000000000000000000000_00_00_11_0111#32 = some (.fib 3) := by decide

/-- The refused words of 95_test_vectors.md section 2.7. -/
theorem test_decode_illegal :
    [0x00000000, 0x00000008, 0x0000000F, 0x00000521, 0x80000001, 0xFFFFFFFF, 0x000003FF,
      0x00000194, 0x000003F4, 0x00000115, 0x00000096, 0x00000186, 0x00000057,
      0x00000217].map decoded = List.replicate 14 none := by decide
theorem test_decode_reasons :
    [0x00000521, 0x00000008, 0x00000115, 0x00000057, 0x00000194].map illegal =
      [some .reservedBits, some .illegalOpcode, some .rdNotZero, some .rs1NotZero,
        some .rs2NotZero] := by decide

/-! ### The commands (95_test_vectors.md sections 1.2, 2.1 to 2.5) -/

theorem test_add_carries_out_of_limb_7 :
    regAfter (exec (.add 2 0 1) (holding allNines oneBig twoBig twoBig)) 2 = some zeroBig := by
  decide +kernel
theorem test_add_three_times_the_same_register :
    regAfter (exec (.add 1 1 1) (holding oneBig (limbs [50000000]) oneBig oneBig)) 1 =
      some (limbs [0, 1]) := by decide +kernel
theorem test_sub_borrows_through_seven_limbs :
    regAfter (exec (.sub 2 0 1) (holding (limbs [0, 0, 0, 0, 0, 0, 0, 1]) oneBig oneBig oneBig)) 2 =
      some (limbs (List.replicate 7 99999999)) := by decide +kernel
theorem test_sub_underflow_wraps_silently :
    (nextOf (exec (.sub 2 0 1) (holding (limbs [0, 1]) (limbs [0, 0, 1]) oneBig oneBig .wrap))).map
      (fun t => (t.reg 2, t.statusWord)) =
      some (limbs [0, 1, 99999999, 99999999, 99999999, 99999999, 99999999, 99999999], 2) := by
  decide +kernel
theorem test_mul_accumulator_peak :
    regAfter (exec (.mul 3 0 1) (holding allNines allNines twoBig twoBig)) 3 = some oneBig := by
  decide +kernel
theorem test_mul_four_limbs_by_four :
    regAfter (exec (.mul 3 0 1)
      (holding (limbs [5760200, 33862144, 67718930, 9969216])
        (limbs [7386349, 14157979, 42490458, 16130531]) twoBig twoBig)) 3 =
      some (limbs [47509800, 4533524, 14021850, 1806693, 90904192, 89040424, 62893084, 1608087]) := by
  decide +kernel
theorem test_copy_keeps_source :
    (nextOf (exec (.copy 1 2) (holding zeroBig (limbs [7]) (limbs [55]) zeroBig))).map
      (fun t => (t.reg 1, t.reg 2)) = some (limbs [55], limbs [55]) := by decide +kernel
theorem test_cmpeq_sees_limb_7 :
    statusAfter (exec (.cmpeq 0 1)
      (holding (limbs [0, 0, 0, 0, 0, 0, 0, 1]) zeroBig zeroBig zeroBig)) = some 2 := by
  decide +kernel
theorem test_cmpeq_equal :
    statusAfter (exec (.cmpeq 0 1)
      (holding (limbs [86269025, 125]) (limbs [86269025, 125]) zeroBig zeroBig)) = some 6 := by
  decide +kernel
theorem test_iszero_after_reset : statusAfter (exec (.iszero 2) State.reset) = some 6 := by
  decide +kernel
theorem test_iszero_sees_limb_7 :
    statusAfter (exec (.iszero 2)
      (holding zeroBig zeroBig (limbs [0, 0, 0, 0, 0, 0, 0, 1]) zeroBig)) = some 2 := by
  decide +kernel
theorem test_fib_92 :
    regAfter (exec (.fib 1) (fibAccepted 1 92)) 1 = some (limbs [46346429, 1138047, 754]) := by
  decide +kernel
theorem test_fib_truncates_at_308 :
    regAfter (exec (.fib 3) (fibAccepted 3 308)) 3 =
      some (limbs [50120621, 91088222, 38170874, 653786, 75836208, 57208369, 9520720, 4401850]) := by
  decide +kernel

/-- 95_test_vectors.md section 2.5: the round at P = 0 underflows, here under `wrap`. -/
theorem test_fib_612_wraps :
    regAfter (exec (.fib 0) (fibAccepted 0 612 .wrap)) 0 =
      some (limbs [33031344, 50227240, 38402621, 590668, 51078495, 62241568, 82112012, 65281978]) := by
  decide +kernel

/-- 95_test_vectors.md section 2.6, the round at P = 1. -/
theorem test_round_of_92 :
    seqRound .draw false ⟨limbs [28657], limbs [46368], 0⟩ =
      ⟨limbs [36311903, 18], limbs [71215073, 29], 0⟩ := by decide +kernel

/-! ### The port and its errors (95_test_vectors.md section 2.8), a step of each -/

theorem test_read_id : State.reset.portRead (portAddr 0x000) = 0x01040808 := by decide
theorem test_reads_of_nothing :
    [0x004, 0x00C, 0x018, 0x0FC, 0x180, 0xFFC].map (fun b => midRound.portRead (portAddr b)) =
      List.replicate 6 0 := by decide +kernel
theorem test_limb_write :
    regAfter (step (hosted [.write (portAddr 0x104) 99999999])) 0 = some (limbs [0, 99999999]) := by
  decide +kernel
theorem test_limb_write_range :
    statusAfter (step (hosted [.write (portAddr 0x104) 100000000])) = some 0x30 := by decide +kernel
theorem test_write_id_is_addr :
    statusAfter (step (hosted [.write (portAddr 0x000) 0])) = some 0x40 := by decide +kernel
theorem test_first_error_is_kept :
    ((hosted []).raise .range).raise .addr = (hosted []).raise .range := by decide +kernel
theorem test_busy_before_illegal : (midRound.portWrite cmdAddr 0).err = .busy := by decide +kernel
theorem test_addr_before_busy : (midRound.portWrite (portAddr 0x000) 5).err = .addr := by
  decide +kernel
theorem test_reset_wins_over_a_commit :
    (nextOf (step { fibAccepted 1 10 with env := [⟨true, .finish⟩] })).map
      (fun t => (t.reg 1, t.busy, t.done)) = some (zeroBig, false, false) := by decide +kernel

/-! ### The fixed entries of the host -/

theorem test_withFetchWord_runs_iszero :
    statusAfter (step (State.reset.withFetchWord 32 0x86)) = some 6 := by decide +kernel
theorem test_withFetchWord_refuses :
    statusAfter (step (State.reset.withFetchWord 32 0x521)) = some 0x10 := by decide +kernel

/-! ### The assembly language (R78, R79), the printed form (R58) and the reference schedule (R191) -/

theorem test_line_add :
    readLine "add_line".toList = none ∧
      readLine "  ADD R2, r0,R1 ; sum".toList = some [.cmd (.add 2 0 1)] := by decide +kernel
theorem test_line_ldr :
    readLine "LDR R0, 7540113804746346429".toList = some [.ldr 0 7540113804746346429] := by
  decide +kernel
theorem test_line_comment : readLine "; nothing".toList = some [] := by decide +kernel
theorem test_fibk_expands :
    (Stmt.fibk 1 92).expand =
      [.write (portAddr 0x010) 0x5C, .write (portAddr 0x014) 0, .write (portAddr 0x004) 0x17,
        .wait] := by decide +kernel
theorem test_ldr_expands :
    (Stmt.ldr 0 7540113804746346429).expand.take 3 =
      [.write (portAddr 0x100) 0x02C330BD, .write (portAddr 0x104) 0x00115D7F,
        .write (portAddr 0x108) 0x000002F2] := by decide +kernel
theorem test_printed :
    (limbs [5, 0, 12]).printed = "120000000000000005".toList ∧ zeroBig.printed = "0".toList := by
  decide +kernel
theorem test_reference_latency :
    [0, 1, 5, 6, 10, 50, 92, 100, BitVec.allOnes 64].map (referenceLatency (.fib 0)) =
      [2, 171, 502, 502, 664, 995, 1164, 1157, 10818] := by decide +kernel

/-! ### Witnesses: states and operands that meet the obligations' hypotheses -/

/-- DecodeOfEncodeIsTheCommand. -/
theorem witness_wellFormed : (Instr.add 3 1 2).wellFormed = true := by decide

/-- DecodedWordIsTheEncoding. -/
theorem witness_decode_ok : decode 0x3F3 = .ok (.mul 3 3 3) := rfl

/-- CommandExactlyWhenMatchAndMask, both clauses. -/
theorem witness_row :
    (⟨"FIB", 0x00000007, 0xFFFFFFCF⟩ : OpcodeRow) ∈ opcodeRows ∧
      (⟨"FIB", 0x00000007, 0xFFFFFFCF⟩ : OpcodeRow).admits 0x37 = true := by decide

/-- ResetEdgeLeavesResetValues and StatusWriteClearsErr, with a read and without one. -/
theorem witness_rst :
    State.now { midRound with env := [⟨true, .finish⟩] } = ⟨true, .finish⟩ ∧
      State.readNow { midRound with env := [⟨true, .finish⟩] } = some statusAddr ∧
      (hosted []).readNow = none := by decide +kernel

/-- StepKeepsInv, StepNeverStopsUnderInv, LimbReadsBelowBase: a state in the middle of a round. -/
theorem witness_inv : Inv midRound where
  regs := by decide +kernel
  idle := by decide
  done := by decide
  flight := fun _ => ⟨.fib 1, rfl⟩
  kind := by decide
  low := by decide +kernel
  high := by decide +kernel
  f2n := by decide +kernel
  f2n1 := by decide

theorem witness_inv_step : ∃ t, step midRound = .next t := ⟨_, rfl⟩

/-- The units' statements: canonical operands on either side of an underflow, and equal ones. -/
theorem witness_canon :
    allNines.Canon ∧ oneBig.Canon ∧ zeroBig.Canon ∧ oneBig.val ≤ allNines.val ∧
      zeroBig.val < oneBig.val ∧ underflows oneBig oneBig = false := by decide +kernel

/-- The commands' statements: canonical registers, with and without an underflow, in both policies. -/
theorem witness_regsCanon :
    (holding allNines oneBig zeroBig twoBig).RegsCanon ∧
      (State.reg (holding allNines oneBig zeroBig twoBig) 1).val ≤
        (State.reg (holding allNines oneBig zeroBig twoBig) 0).val := by decide +kernel
theorem witness_underflow :
    (holding zeroBig oneBig zeroBig twoBig .wrap).RegsCanon ∧
      (State.reg (holding zeroBig oneBig zeroBig twoBig .wrap) 0).val <
        (State.reg (holding zeroBig oneBig zeroBig twoBig .wrap) 1).val ∧
      (holding zeroBig oneBig zeroBig twoBig .wrap).policy = .wrap ∧
      (holding zeroBig oneBig zeroBig twoBig).RegsCanon ∧
      (State.reg (holding zeroBig oneBig zeroBig twoBig) 0).val <
        (State.reg (holding zeroBig oneBig zeroBig twoBig) 1).val ∧
      (holding zeroBig oneBig zeroBig twoBig).policy = .draw := by decide +kernel

/-- FibCommitsSeqResult, FibGivesFibonacciModM (each side of its condition), FibIsExactInTheSupportedRange
(both bounds), FibDependsOnKAlone, FibOperationCounts. -/
theorem witness_fib :
    (fibAccepted 1 92).sstate = .fInit ∧ (fibAccepted 1 92).kl ≠ 0#64 ∧
      fibUnderflows (fibAccepted 1 92).kl = false ∧
      (fibAccepted 2 612 .wrap).sstate = .fInit ∧ (fibAccepted 2 612 .wrap).policy = .wrap := by
  decide +kernel
theorem witness_fib_range :
    (fibAccepted 1 611).sstate = .fInit ∧ (fibAccepted 1 611).kl.toNat ≤ 611 ∧
      (fibAccepted 1 307).sstate = .fInit ∧ (fibAccepted 1 307).kl.toNat ≤ 307 := by decide
theorem witness_fib_pair :
    (fibAccepted 1 92).sstate = .fInit ∧ State.sstate { midRound with sstate := .fInit } = .fInit ∧
      (fibAccepted 1 10).kl = midRound.kl ∧ (fibAccepted 1 10).policy = midRound.policy ∧
      (fibAccepted 1 10).draws = midRound.draws := by decide

/-- UnderflowStartsAt612. -/
theorem witness_k_611 : (611 : BitVec 64).toNat ≤ 611 := by decide

/-- RoundDoublesTheIndex. -/
theorem witness_round :
    SeqPair.low ⟨limbs [5], limbs [8], 0⟩ = big (Nat.fib 5 % Config.modulus) ∧
      SeqPair.high ⟨limbs [5], limbs [8], 0⟩ = big (Nat.fib (5 + 1) % Config.modulus) ∧
      SeqPair.underflows ⟨limbs [5], limbs [8], 0⟩ = false := by decide +kernel

/-- DoublingConsistency. -/
theorem witness_doubling :
    1 ≤ (46 : BitVec 64).toNat ∧ 2 * (46 : BitVec 64).toNat + 1 < 2 ^ 64 ∧
      fibUnderflows 46 = false ∧ fibUnderflows (46 + 1) = false ∧ fibUnderflows (2 * 46) = false ∧
      fibUnderflows (2 * 46 + 1) = false := by decide +kernel

/-- StatusWordLayout: the five values of ERR. -/
theorem witness_err_values :
    [ErrCode.none, .illegal, .busy, .range, .addr].map (fun e => State.err { midRound with err := e }) =
      [.none, .illegal, .busy, .range, .addr] := by decide

/-- FsmTransitions: each state, with both values of its condition. -/
theorem witness_fsm :
    State.reset.sstate = .idle ∧ (State.reset.accept 1#4 0 0 0).sstate = .exec ∧
      (fibAccepted 0 0).sstate = .fInit ∧ (fibAccepted 0 0).kl = 0 ∧ (fibAccepted 0 5).kl ≠ 0 ∧
      midRound.sstate = .fSqL ∧
      State.sstate { midRound with sstate := .fAdv, p := 1 } = .fAdv ∧
      midRound.kl.getLsbD 1 = true ∧ midRound.kl.getLsbD midRound.p.toNat = false ∧
      State.sstate { midRound with sstate := .fNext } = .fNext ∧ midRound.p ≠ 0 ∧
      State.p { midRound with sstate := .fNext, p := 0 } = 0 := by decide

/-- OnlyComparesWriteEq. -/
theorem witness_exec : ∃ t, exec (.fib 2) midRound = .next t := ⟨_, rfl⟩

/-- RegisterCommandsFrame (with witness_exec) and CompareCommandsFrame: a limb of another register and a half of K. -/
theorem witness_exec_compare : ∃ t, exec (.cmpeq 0 1) midRound = .next t := ⟨_, rfl⟩
theorem witness_frame :
    limbAddr 1 7 ≠ statusAddr ∧ (∀ l : LimbId, limbAddr 1 7 ≠ limbAddr 2 l) ∧
      kHiAddr ≠ statusAddr ∧ (∀ l : LimbId, kHiAddr ≠ limbAddr 2 l) := by decide

/-- PortReadMap: the ends of every range, and every aligned address under exactly one clause. -/
theorem witness_port_ranges :
    (0x018 < 0x1000 ∧ 0x018 % 4 = 0) ∧ (0x0FC < 0x1000 ∧ 0x0FC % 4 = 0) ∧
      0x100 = 0x100 + 0x20 * (0 : RegId).val + 4 * (0 : LimbId).val ∧
      0x17C = 0x100 + 0x20 * (3 : RegId).val + 4 * (7 : LimbId).val ∧
      (0x180 < 0x1000 ∧ 0x180 % 4 = 0) ∧ (0xFFC < 0x1000 ∧ 0xFFC % 4 = 0) := by decide
theorem witness_port_clauses :
    (∀ n : Fin 1024,
      [decide (4 * n.val ∈ [0x000, 0x004, 0x008, 0x010, 0x014]), limbByte (4 * n.val),
        decide (4 * n.val = 0x00C ∨ (0x018 ≤ 4 * n.val ∧ 4 * n.val ≤ 0x0FC) ∨ 0x180 ≤ 4 * n.val)].count
          true = 1) ∧
    ∀ (r : RegId) (i : LimbId), limbByte (0x100 + 0x20 * r.val + 4 * i.val) = true := by
  decide +kernel

/-- ReadChangesNothing. -/
theorem witness_read :
    (hosted [.read (portAddr 0x140)]).now.rst = false ∧ (hosted [.read (portAddr 0x140)]).busy = false ∧
      (hosted [.read (portAddr 0x140)]).host = .read (portAddr 0x140) :: [] := by decide

/-- LimbWriteStores, at the largest limb. -/
theorem witness_limb_write :
    (hosted [.write (limbAddr 3 7) 99999999]).now.rst = false ∧
      (hosted [.write (limbAddr 3 7) 99999999]).busy = false ∧
      (99999999 : Word).toNat < Config.base ∧
      (hosted [.write (limbAddr 3 7) 99999999]).host = .write (limbAddr 3 7) 99999999 :: [] := by
  decide

/-- KWriteStores, each half. -/
theorem witness_k_write :
    (hosted [.write kLoAddr 0xFFFFFFFF]).host = .write kLoAddr 0xFFFFFFFF :: [] ∧
      (hosted [.write kHiAddr 1]).host = .write kHiAddr 1 :: [] ∧
      (hosted [.write kHiAddr 1]).now.rst = false ∧ (hosted [.write kHiAddr 1]).busy = false := by decide

/-- RefusedWriteRecordsItsCode: each cause, at the ends of its range (R162, R164). -/
theorem witness_refused :
    [0x000, 0x00C, 0x018, 0x0FC, 0x180, 0xFFC].map
        (fun b => writeRefusal true (portAddr b) 0) = List.replicate 6 (some .addr) ∧
      [0x004, 0x010, 0x014, 0x100, 0x17C].map
        (fun b => writeRefusal true (portAddr b) 0xFFFFFFFF) = List.replicate 5 (some .busy) ∧
      writeRefusal false cmdAddr 0 = some .illegal ∧
      [0x100, 0x17C].map (fun b => writeRefusal false (portAddr b) 100000000) =
        List.replicate 2 (some .range) := by decide +kernel

/-- RefusedWriteRecordsItsCode, the step: an idle machine's cycle with a write refused for each cause. -/
theorem witness_refused_step :
    ∀ p ∈ ([(0x000, 0, .addr), (0x180, 1, .addr), (0x004, 0, .illegal), (0x17C, 100000000, .range)] :
        List (Nat × Word × ErrCode)),
      (hosted [.write (portAddr p.1) p.2.1]).now.rst = false ∧
        (hosted [.write (portAddr p.1) p.2.1]).busy = false ∧
        (hosted [.write (portAddr p.1) p.2.1]).host = .write (portAddr p.1) p.2.1 :: [] ∧
        writeRefusal false (portAddr p.1) p.2.1 = some p.2.2 := by decide +kernel

/-- StatusWriteClearsErr, the step: an idle machine that holds an error. -/
theorem witness_status_write_step :
    State.now { hosted [.write statusAddr 0x12345678] with err := .range } = quietCycle ∧
      quietCycle.rst = false ∧
      State.busy { hosted [.write statusAddr 0x12345678] with err := .range } = false ∧
      State.host { hosted [.write statusAddr 0x12345678] with err := .range } =
        .write statusAddr 0x12345678 :: [] := by decide

/-- AcceptedWriteKeepsErr. -/
theorem witness_accepted :
    [(0x004, 0x121), (0x010, 5), (0x014, 5), (0x100, 99999999), (0x17C, 0)].map
        (fun p => writeRefusal false (portAddr p.1) p.2) = List.replicate 5 none ∧
      portAddr 0x17C ≠ statusAddr ∧ writeRefusal true statusAddr 0 = none := by decide +kernel

/-- CmdWriteAcceptsTheDecodedCommand and IllegalCmdWriteStartsNothing. -/
theorem witness_cmd_write :
    (hosted [.write cmdAddr 0x37]).now.rst = false ∧ (hosted [.write cmdAddr 0x37]).busy = false ∧
      (hosted [.write cmdAddr 0x37]).host = .write cmdAddr 0x37 :: [] := by decide
theorem witness_cmd_words : decode 0x37 = .ok (.fib 3) ∧ decode 0x57 = .error .rs1NotZero := ⟨rfl, rfl⟩

/-- The state of midRound in its last cycle, with the host's operation given. -/
def lastCycle (op : HostOp) : State := { midRound with host := [op], env := [] }

/-- StepRunsTheLatchedCommand and CommitCycleTransactionSeesBusy, with a read. -/
theorem witness_finish :
    (lastCycle (.read statusAddr)).now = ⟨false, .finish⟩ ∧
      (lastCycle (.read statusAddr)).busy = true ∧
      (lastCycle (.read statusAddr)).host = .read statusAddr :: [] := by decide
theorem witness_inflight : (lastCycle (.read statusAddr)).inflight = .ok (.fib 1) := rfl

/-- CommitCycleTransactionSeesBusy: each kind of refused write. -/
theorem witness_finish_writes :
    ∀ a ∈ [cmdAddr, kLoAddr, kHiAddr, limbAddr 3 7],
      (lastCycle (.write a 0)).now = ⟨false, .finish⟩ ∧ (lastCycle (.write a 0)).busy = true ∧
        (lastCycle (.write a 0)).host = .write a 0 :: [] := by decide
theorem witness_finish_writes_inflight :
    (lastCycle (.write (limbAddr 3 7) 0)).inflight = .ok (.fib 1) := rfl

/-- HostChangesOnlyErrWhileBusy and FlightLeavesResultsUntouched. -/
theorem witness_flight :
    midRound.busy = true ∧ midRound.now.rst = false ∧ midRound.now.core = .work 3 := by decide

/-- FIB R3 about to be accepted, with LAT = 3 and a reset after the commit. -/
def aboutToIssue : State :=
  hosted [.write cmdAddr 0x37, .write statusAddr 0]
    (⟨false, .finish⟩ :: (flightCycles [2, 700] ++ [⟨true, .finish⟩]))

/-- CommandCommitsAfterItsLatency, beside witness_cmd_words. -/
theorem witness_latency :
    aboutToIssue.busy = false ∧ aboutToIssue.host = .write cmdAddr 0x37 :: [.write statusAddr 0] ∧
      aboutToIssue.env = ⟨false, .finish⟩ :: (flightCycles [2, 700] ++ [⟨true, .finish⟩]) := by decide

/-- WaitEndsWithTheCommandCommitted, beside witness_inv. -/
theorem witness_wait :
    midRound.host = .wait :: [] ∧ (∀ c ∈ midRound.env, c.rst = false) := by decide

/-- DeadHiddenStateIsUnobservable, beside witness_inv: two states that differ in a hidden register
that is not used any more. -/
theorem witness_dead_inv : Inv { midRound with t1 := allNines, rs2l := 0 } where
  regs := by decide +kernel
  idle := by decide
  done := by decide
  flight := fun _ => ⟨.fib 1, rfl⟩
  kind := by decide
  low := by decide +kernel
  high := by decide +kernel
  f2n := by decide +kernel
  f2n1 := by decide
theorem witness_dead :
    State.scrub { midRound with t1 := allNines, rs2l := 0 } = midRound.scrub ∧
      State.t1 { midRound with t1 := allNines, rs2l := 0 } ≠ midRound.t1 := by decide +kernel

/-- LdrLoadsTheRegister and LdkLoadsK, at the largest operands. -/
def ldrLargest : State := hosted ((Stmt.ldr 3 (10 ^ 64 - 1)).expand ++ [.wait])

/-- The same for LDK. -/
def ldkLargest : State := hosted ((Stmt.ldk (2 ^ 64 - 1)).expand ++ [.wait])

theorem witness_ldr_operands :
    (Stmt.ldr 3 (10 ^ 64 - 1)).wellFormed = true ∧ (Stmt.ldk (2 ^ 64 - 1)).wellFormed = true := by
  decide +kernel
theorem witness_ldr_state :
    ldrLargest.host = (Stmt.ldr 3 (10 ^ 64 - 1)).expand ++ [.wait] ∧
      ldkLargest.host = (Stmt.ldk (2 ^ 64 - 1)).expand ++ [.wait] := ⟨rfl, rfl⟩
theorem witness_ldr_idle :
    ldrLargest.busy = false ∧ (∀ c ∈ ldrLargest.env, c.rst = false) ∧ ldkLargest.busy = false ∧
      ∀ c ∈ ldkLargest.env, c.rst = false := by decide

end Sys2Proof.Tests
end

section
/-! PROOFS. Facts of the state's own layer: the latched command, the FSM's transitions, the port's writes
and the host's side of a cycle (10_state.md, 20_memory.md, 41_fast_doubling.md). -/

namespace Sys2Proof.Machine

/-! ### The latched command -/

/-- Latched fields that are a command hold its opcode (R43, R76). -/
theorem decodeFields_opcode {op : BitVec 4} {rd rs1 rs2 : RegId} {i : Instr}
    (h : decodeFields op rd rs1 rs2 = .ok i) : op = i.opcode := by
  have key : op.toNat = i.opcode.toNat := by
    unfold decodeFields at h
    split at h <;> (try split at h) <;> (try split at h) <;> cases h <;> assumption
  exact BitVec.eq_of_toNat_eq key

theorem inflight_fib {s : State} {rd : RegId} (h : s.inflight = .ok (.fib rd)) : s.opl = 7#4 :=
  decodeFields_opcode h

/-- The fields of a command decode to it, once the reserved bits are 0 (R76). -/
theorem decode_of_fields {w : Word} {i : Instr} (hv : (splitWord w).rsv = 0#22)
    (ho : (splitWord w).op = i.opcode) (hd : (splitWord w).rd = i.rdField)
    (h1 : (splitWord w).rs1 = i.rs1Field) (h2 : (splitWord w).rs2 = i.rs2Field) :
    decode w = .ok i := by
  simp [decode, hv, ho, hd, h1, h2, decodeFields_fields]

/-! ### The FSM's transitions, state by state (R137) -/

section
variable {s : State}

theorem fsmStep_exec (h : s.sstate = .exec) : s.fsmStep = { s with sstate := .commit } := by
  simp [State.fsmStep, h]

theorem fsmStep_fInit (h : s.sstate = .fInit) : s.fsmStep = s.seqInit := by
  simp [State.fsmStep, h]

theorem fsmStep_fMul2 (h : s.sstate = .fMul2) :
    s.fsmStep = { s with t1 := mulu s.high twoBig, sstate := .fSub } := by
  simp [State.fsmStep, h]

theorem fsmStep_fSub (h : s.sstate = .fSub) : s.fsmStep = s.seqSub := by
  simp [State.fsmStep, h]

theorem fsmStep_fMulD (h : s.sstate = .fMulD) :
    s.fsmStep = { s with f2n := mulu s.low s.t2, sstate := .fSqL } := by
  simp [State.fsmStep, h]

theorem fsmStep_fSqL (h : s.sstate = .fSqL) :
    s.fsmStep = { s with sql := mulu s.low s.low, sstate := .fSqH } := by
  simp [State.fsmStep, h]

theorem fsmStep_fSqH (h : s.sstate = .fSqH) :
    s.fsmStep = { s with sqh := mulu s.high s.high, sstate := .fAddS } := by
  simp [State.fsmStep, h]

theorem fsmStep_fAddS (h : s.sstate = .fAddS) :
    s.fsmStep = { s with f2n1 := addu s.sql s.sqh, sstate := .fAdv } := by
  simp [State.fsmStep, h]

theorem fsmStep_fAdv (h : s.sstate = .fAdv) : s.fsmStep = s.seqAdvance := by
  simp [State.fsmStep, h]

theorem fsmStep_fNext (h : s.sstate = .fNext) : s.fsmStep = s.seqNext := by
  simp [State.fsmStep, h]

end

/-! ### What a write does to an idle machine -/

/-- The updates that a host write can make of an idle machine (R52, R55, R76, R163, R165). -/
inductive IdleWrite (s : State) (w : Word) : State → Prop
  | raise (e : ErrCode) : IdleWrite s w (s.raise e)
  | clearErr : IdleWrite s w s.clearErr
  | setKLo : IdleWrite s w (s.setKLo w)
  | setKHi : IdleWrite s w (s.setKHi w)
  | setLimb (r : RegId) (i : LimbId) (h : w.toNat < Config.base) :
      IdleWrite s w (s.setLimb r i (w.setWidth 27))
  | accept (i : Instr) :
      IdleWrite s w (s.accept i.opcode i.rdField i.rs1Field i.rs2Field)

theorem portWrite_idle {s : State} (hb : s.busy = false) (a : PortAddr) (w : Word) :
    IdleWrite s w (s.portWrite a w) := by
  cases ht : target a with
  | id => simpa [State.portWrite, ht] using .raise .addr
  | cmd =>
    cases hd : decode w with
    | error e => simpa [State.portWrite, ht, State.writeCmd, hb, hd] using .raise .illegal
    | ok i =>
      simpa [State.portWrite, ht, State.writeCmd, hb, hd, acceptWord_decoded hd] using .accept i
  | status => simpa [State.portWrite, ht] using .clearErr
  | kLo => simpa [State.portWrite, ht, State.writeKLo, hb] using .setKLo
  | kHi => simpa [State.portWrite, ht, State.writeKHi, hb] using .setKHi
  | limb r i =>
    simp only [State.portWrite, ht, State.writeLimb, hb, Bool.false_eq_true, if_false]
    split
    · exact .raise .range
    · next hw => exact .setLimb r i (not_le.mp hw)
  | reserved => simpa [State.portWrite, ht] using .raise .addr

/-- An idle machine's host side starts with its write, if it presents one. -/
theorem busWrite_idle {s : State} (hb : s.busy = false) :
    s.busWrite = s ∨ ∃ w, IdleWrite s w s.busWrite := by
  unfold State.busWrite
  split
  · exact .inr ⟨_, portWrite_idle hb _ _⟩
  · exact .inl rfl

/-! ### The host's side while a command is in flight -/

/-- The state with only the port's ERR and the host's and the environment's side replaced. -/
def State.withPort (s : State) (e : ErrCode) (host : List HostOp) (env : List EnvCycle)
    (data : Option Word) (reads : List Word) : State :=
  { s with err := e, host := host, env := env, hrdata := data, reads := reads }

/-- Settles O51: while a command is in flight every write but one to STATUS is refused. -/
theorem hostChangesOnlyErrWhileBusy : Obligations.HostChangesOnlyErrWhileBusy := by
  unfold Obligations.HostChangesOnlyErrWhileBusy
  intro s hb
  cases hh : s.host with
  | nil => simp [State.hostEdge, State.busWrite, State.busEnd, State.popEnv, hh]
  | cons op rest =>
    cases op with
    | write a w =>
      rw [State.hostEdge, State.busWrite, hh]
      simp only [portWrite_busy hb]
      by_cases ha : a = statusAddr
      · simp [ha, State.clearErr, State.busEnd, State.popEnv]
      · by_cases hr : addrByte (byteAddr a) = true <;>
          simp [ha, hr, State.raise_record, State.busEnd, State.popEnv]
    | _ => simp [State.hostEdge, State.busWrite, State.busEnd, State.popEnv, hh]

theorem hostEdge_withPort {s : State} (hb : s.busy = true) :
    ∃ e host env data reads, s.hostEdge = s.withPort e host env data reads :=
  ⟨_, _, _, _, _, hostChangesOnlyErrWhileBusy s hb⟩

/-- Settles O52: the FSM's transitions write none of the visible results. -/
theorem flightLeavesResultsUntouched : Obligations.FlightLeavesResultsUntouched := by
  unfold Obligations.FlightLeavesResultsUntouched
  intro s n hr hb hc
  have b := hostEdge_busy hb
  have f := runFsm_frame n s.hostEdge
  have hstep : step s = .next (State.runFsm n s.hostEdge) := by rw [step_busy hr hb, hc, coreEdge]
  exact ⟨_, hstep, by rw [f.busy, b.busy, hb], f.done.trans b.done, f.eq.trans b.eq, f.k.trans b.k,
    f.regs.trans b.regs, f.inflight.trans b.inflight, f.kl.trans b.kl⟩

end Sys2Proof.Machine
end

section
/-! PROOFS. The invariant of the machine (10_state.md R25, R34, R35, R43; 41_fast_doubling.md R137). -/

namespace Sys2Proof.Machine

/-! ### Canonical big registers -/

theorem State.RegsCanon.congr {s t : State} (h : s.RegsCanon) (e : t.regs = s.regs) :
    t.RegsCanon := fun r => by
  rw [State.reg, e]
  exact h r

theorem State.RegsCanon.setReg {s : State} (h : s.RegsCanon) (r : RegId) {X : BigNum}
    (hX : X.Canon) : (s.setReg r X).RegsCanon := fun q => by
  rw [State.reg_setReg]
  split
  · exact hX
  · exact h q

theorem canon_set {X : BigNum} (h : X.Canon) (i : LimbId) {x : Limb}
    (hx : x.toNat < Config.base) : BigNum.Canon (X.set i.val x) := fun j => by
  rw [Vector.getElem_set]
  split
  · exact hx
  · exact h j

theorem State.RegsCanon.setLimb {s : State} (h : s.RegsCanon) (r : RegId) (i : LimbId) {x : Limb}
    (hx : x.toNat < Config.base) : (s.setLimb r i x).RegsCanon :=
  h.setReg r (canon_set (h r) i hx)

/-! ### The invariant of an idle machine -/

theorem Inv.ne_idle {s : State} (h : Inv s) (hb : s.busy = true) : s.sstate ≠ .idle := fun e => by
  simp [h.idle.mp e] at hb

/-- With no command in flight no working register is in use, so only the capacity invariant is left. -/
theorem Inv.of_idle {s : State} (hregs : s.RegsCanon) (hs : s.sstate = .idle)
    (hb : s.busy = false) : Inv s where
  regs := hregs
  idle := by simp [hs, hb]
  done := by simp [hb]
  flight := by simp [hb]
  kind := by simp [hb]
  low := by simp [State.lowLive, hs]
  high := by simp [SeqState.highLive, hs]
  f2n := by simp [SeqState.f2nLive, hs]
  f2n1 := by simp [hs]

/-- Settles O8: the reset state is idle and its big registers are 0. -/
theorem invHoldsAtReset : Obligations.InvHoldsAtReset := by
  unfold Obligations.InvHoldsAtReset
  refine Inv.of_idle (fun r => ?_) rfl rfl
  have hr : State.reset.reg r = zeroBig := by simp [State.reg, State.reset]
  rw [hr]
  exact zeroBig_canon

/-- Settles O41: a limb that the port reads is a limb of a canonical register. -/
theorem limbReadsBelowBase : Obligations.LimbReadsBelowBase := by
  unfold Obligations.LimbReadsBelowBase
  intro s r i h
  have hi : (s.limb r i).toNat < Config.base := h.regs r i
  have hw : (s.limb r i).toNat < 2 ^ 32 := lt_trans hi (by decide)
  rw [State.portRead, target_limbAddr, BitVec.toNat_setWidth, Nat.mod_eq_of_lt hw]
  exact hi

theorem Inv.resetEdge (s : State) : Inv s.resetEdge :=
  Inv.of_idle (invHoldsAtReset.regs.congr rfl) rfl rfl

/-- An accept latches a command and starts the FSM in the state of its kind (R110, R137). -/
theorem Inv.accept {s : State} (h : Inv s) (i : Instr) :
    Inv (s.accept i.opcode i.rdField i.rs1Field i.rs2Field) where
  regs := h.regs.congr rfl
  idle := by by_cases ho : i.opcode = 7#4 <;> simp [ho]
  done := by simp
  flight := fun _ => ⟨i, decodeFields_fields i⟩
  kind := by by_cases ho : i.opcode = 7#4 <;> simp [ho, SeqState.inFib]
  low := by by_cases ho : i.opcode = 7#4 <;> simp [ho, State.lowLive]
  high := by by_cases ho : i.opcode = 7#4 <;> simp [ho, SeqState.highLive]
  f2n := by by_cases ho : i.opcode = 7#4 <;> simp [ho, SeqState.f2nLive]
  f2n1 := by by_cases ho : i.opcode = 7#4 <;> simp [ho]

/-! ### The host's side of a cycle -/

theorem Inv.withPort {s : State} (h : Inv s) (e : ErrCode) (host : List HostOp)
    (env : List EnvCycle) (data : Option Word) (reads : List Word) :
    Inv (s.withPort e host env data reads) :=
  ⟨h.regs, h.idle, h.done, h.flight, h.kind, h.low, h.high, h.f2n, h.f2n1⟩

theorem Inv.idleWrite {s t : State} {w : Word} (h : Inv s) (hb : s.busy = false)
    (ht : IdleWrite s w t) : Inv t := by
  have hs : s.sstate = .idle := h.idle.mpr hb
  cases ht with
  | raise e => exact .of_idle (h.regs.congr (by simp)) (by simpa using hs) (by simpa using hb)
  | clearErr => exact .of_idle (h.regs.congr rfl) hs hb
  | setKLo => exact .of_idle (h.regs.congr rfl) hs hb
  | setKHi => exact .of_idle (h.regs.congr rfl) hs hb
  | setLimb r i hw =>
    have hx : (w.setWidth 27).toNat < Config.base := by
      rw [BitVec.toNat_setWidth]
      exact lt_of_le_of_lt (Nat.mod_le _ _) hw
    exact .of_idle (h.regs.setLimb r i hx) hs hb
  | accept i => exact h.accept i

theorem Inv.hostEdge {s : State} (h : Inv s) : Inv s.hostEdge := by
  cases hb : s.busy
  case true =>
    obtain ⟨e, host, env, data, reads, he⟩ := hostEdge_withPort hb
    rw [he]
    exact h.withPort e host env data reads
  case false =>
    have hw : Inv s.busWrite := by
      obtain he | ⟨w, hw⟩ := busWrite_idle hb
      · rwa [he]
      · exact h.idleWrite hb hw
    exact hw.withPort _ _ _ _ _

/-! ### The FSM's transitions -/

/-- What a transition of a running FSM has to answer for, its frame being known. -/
theorem Inv.of_seqFrame {s t : State} (h : Inv s) (f : SeqFrame s t) (hb : s.busy = true)
    (hi : t.sstate ≠ .idle) (he : t.sstate ≠ .exec) (hfib : t.sstate.inFib = true → s.opl = 7#4)
    (hlow : t.lowLive = true → t.low.Canon) (hhigh : t.sstate.highLive = true → t.high.Canon)
    (hf2n : t.sstate.f2nLive = true → t.f2n.Canon) (hf2n1 : t.sstate = .fAdv → t.f2n1.Canon) :
    Inv t where
  regs := h.regs.congr f.regs
  idle := by simp [hi, f.busy, hb]
  done := by rw [f.busy, f.done]; exact h.done
  flight := by rw [f.busy, f.inflight]; exact h.flight
  kind := fun _ => ⟨fun ht => f.opl.trans (hfib ht), fun ht => absurd ht he⟩
  low := hlow
  high := hhigh
  f2n := hf2n
  f2n1 := hf2n1

/-- A transition out of a FIB state leads to another one or to COMMIT (R137). -/
theorem Inv.of_fibFrame {s t : State} (h : Inv s) (hb : s.busy = true) (hf : s.sstate.inFib = true)
    (f : SeqFrame s t) (ht : t.sstate.inFib = true ∨ t.sstate = .commit)
    (hlow : t.lowLive = true → t.low.Canon) (hhigh : t.sstate.highLive = true → t.high.Canon)
    (hf2n : t.sstate.f2nLive = true → t.f2n.Canon) (hf2n1 : t.sstate = .fAdv → t.f2n1.Canon) :
    Inv t := by
  refine h.of_seqFrame f hb ?_ ?_ (fun _ => (h.kind hb).1 hf) hlow hhigh hf2n hf2n1
  all_goals rintro e; simp [e, SeqState.inFib] at ht

theorem Inv.fibStep {s : State} (h : Inv s) (hb : s.busy = true) (hf : s.sstate.inFib = true) :
    Inv s.fsmStep := by
  have keep {t : State} := h.of_fibFrame (t := t) hb hf
  have f := fsmStep_frame s
  obtain ⟨-, -, -, -, -, hlow, hhigh, hf2n, hf2n1⟩ := h
  cases hs : s.sstate
  case idle | exec | commit => simp [hs, SeqState.inFib] at hf
  all_goals
    simp only [State.lowLive, SeqState.highLive, SeqState.f2nLive, hs, forall_const]
      at hlow hhigh hf2n hf2n1
  case fInit =>
    rw [fsmStep_fInit hs, State.seqInit] at f ⊢
    revert f
    split
    · exact fun f => keep f (.inr rfl) (fun _ => zeroBig_canon) nofun nofun nofun
    · exact fun f => keep f (.inl rfl) (fun _ => zeroBig_canon) (fun _ => oneBig_canon) nofun nofun
  case fMul2 =>
    rw [fsmStep_fMul2 hs] at f ⊢
    exact keep f (.inl rfl) (fun _ => hlow) (fun _ => hhigh) nofun nofun
  case fSub =>
    rw [fsmStep_fSub hs] at f ⊢
    exact keep f (.inl rfl) (fun _ => hlow) (fun _ => hhigh) nofun nofun
  case fMulD =>
    rw [fsmStep_fMulD hs] at f ⊢
    exact keep f (.inl rfl) (fun _ => hlow) (fun _ => hhigh) (fun _ => mulu_canon _ _) nofun
  case fSqL =>
    rw [fsmStep_fSqL hs] at f ⊢
    exact keep f (.inl rfl) nofun (fun _ => hhigh) (fun _ => hf2n) nofun
  case fSqH =>
    rw [fsmStep_fSqH hs] at f ⊢
    exact keep f (.inl rfl) nofun nofun (fun _ => hf2n) nofun
  case fAddS =>
    rw [fsmStep_fAddS hs] at f ⊢
    exact keep f (.inl rfl) nofun nofun (fun _ => hf2n) (fun _ => addu_canon _ _)
  case fAdv =>
    rw [fsmStep_fAdv hs, State.seqAdvance] at f ⊢
    revert f
    split
    · exact fun f => keep f (.inl rfl) (fun _ => hf2n1) (fun _ => addu_canon _ _) nofun nofun
    · exact fun f => keep f (.inl rfl) (fun _ => hf2n) (fun _ => hf2n1) nofun nofun
  case fNext =>
    rw [fsmStep_fNext hs, State.seqNext] at f ⊢
    revert f
    split
    · exact fun f => keep f (.inr rfl) (fun _ => hlow) nofun nofun nofun
    · exact fun f => keep f (.inl rfl) (fun _ => hlow) (fun _ => hhigh) nofun nofun

theorem Inv.fsmStep {s : State} (h : Inv s) : Inv s.fsmStep := by
  cases hb : s.busy
  case false => simpa [State.fsmStep, h.idle.mpr hb] using h
  case true =>
    cases hs : s.sstate
    case idle => exact absurd hs (h.ne_idle hb)
    case commit => rwa [fsmStep_commit hs]
    case exec =>
      have f := fsmStep_frame s
      rw [fsmStep_exec hs] at f ⊢
      have ho : s.opl ≠ 7#4 := (h.kind hb).2 hs
      exact h.of_seqFrame f hb nofun nofun nofun
        (by simp [State.lowLive, State.fibDone, ho]) nofun nofun nofun
    all_goals exact h.fibStep hb (by simp [hs, SeqState.inFib])

theorem Inv.runFsm {s : State} (h : Inv s) (n : Nat) : Inv (State.runFsm n s) := by
  induction n generalizing s with
  | zero => exact h
  | succ n ih =>
    rw [State.runFsm]
    split
    · exact h
    · exact ih h.fsmStep

/-! ### The commits -/

/-- FIB's result, in LOW at COMMIT, is canonical. -/
theorem Inv.fibResult_canon {s : State} (h : Inv s) (hb : s.busy = true) (ho : s.opl = 7#4) :
    (State.runFsm fsmTransitions s).low.Canon := by
  have hc := runFsm_all s (h.ne_idle hb)
  have hl : (State.runFsm fsmTransitions s).opl = 7#4 := (runFsm_frame _ s).opl.trans ho
  exact (h.runFsm fsmTransitions).low (by simp [State.lowLive, State.fibDone, hc, hl])

/-- A command in flight commits a canonical value to its register (R25). -/
theorem Inv.exec_regsCanon {s t : State} {i : Instr} (h : Inv s) (hb : s.busy = true)
    (hi : s.inflight = .ok i) (ht : exec i s = .next t) : t.RegsCanon := by
  have hr := h.regs
  cases i with
  | add rd rs1 rs2 => cases ht; exact hr.setReg rd (addu_canon _ _)
  | sub rd rs1 rs2 => cases ht; exact hr.setReg rd (subu_canon _ _ (hr rs1) (hr rs2))
  | mul rd rs1 rs2 => cases ht; exact hr.setReg rd (mulu_canon _ _)
  | copy rd rs1 => cases ht; exact hr.setReg rd (hr rs1)
  | cmpeq rs1 rs2 => cases ht; exact hr.congr rfl
  | iszero rs1 => cases ht; exact hr.congr rfl
  | fib rd =>
    cases ht
    exact (h.runFsm fsmTransitions).regs.setReg rd (h.fibResult_canon hb (inflight_fib hi))

/-- Settles O9, by the kinds of step: a reset, the host's side alone, the FSM's transitions, a commit. -/
theorem stepKeepsInv : Obligations.StepKeepsInv := by
  unfold Obligations.StepKeepsInv
  intro s t h ht
  obtain ⟨-, rfl⟩ | ⟨-, -, rfl⟩ | ⟨-, -, n, -, rfl⟩ | ⟨-, hb, -, i, hi, he⟩ := step_cases ht
  · exact Inv.resetEdge s
  · exact h.hostEdge
  · exact h.hostEdge.runFsm n
  · have b := hostEdge_busy hb
    obtain ⟨tb, -, ts, -, -⟩ := exec_ends he
    exact Inv.of_idle (h.hostEdge.exec_regsCanon (b.busy.trans hb) (b.inflight.trans hi) he) ts tb

end Sys2Proof.Machine
end

section
/-! PROOFS. Hidden registers that are not in use cannot be seen (10_state.md R41 to R44): every part of a
step answers the same, up to such registers, whether or not they are set to 0 first. -/

namespace Sys2Proof.Machine

/-! ### The visible updates and `scrub` -/

section
variable (s : State)

@[simp] theorem scrub_scrub : s.scrub.scrub = s.scrub := by
  cases hs : s.sstate
  case commit =>
    by_cases ho : s.opl = 7#4 <;>
      simp [State.scrub, hs, ho, SeqState.inFib, SeqState.pLive, State.lowLive, State.fibDone,
        SeqState.highLive, SeqState.f2nLive, SeqState.sqlLive]
  all_goals
    simp [State.scrub, hs, SeqState.inFib, SeqState.pLive, State.lowLive, SeqState.highLive,
      SeqState.f2nLive, SeqState.sqlLive]

@[simp] theorem scrub_busy : s.scrub.busy = s.busy := rfl

@[simp] theorem scrub_sstate : s.scrub.sstate = s.sstate := rfl

@[simp] theorem scrub_now : s.scrub.now = s.now := rfl

@[simp] theorem scrub_clearErr : s.scrub.clearErr = s.clearErr.scrub := rfl

@[simp] theorem scrub_raise (e : ErrCode) : s.scrub.raise e = (s.raise e).scrub := by
  rw [State.raise_record, State.raise_record]
  rfl

@[simp] theorem scrub_setKLo (w : Word) : s.scrub.setKLo w = (s.setKLo w).scrub := rfl

@[simp] theorem scrub_setKHi (w : Word) : s.scrub.setKHi w = (s.setKHi w).scrub := rfl

@[simp] theorem scrub_setLimb (r : RegId) (i : LimbId) (x : Limb) :
    s.scrub.setLimb r i x = (s.setLimb r i x).scrub := rfl

/-- An accept starts the FSM in a state that uses no working register (R131, R137). -/
@[simp] theorem scrub_accept (op : BitVec 4) (rd rs1 rs2 : RegId) :
    (s.scrub.accept op rd rs1 rs2).scrub = (s.accept op rd rs1 rs2).scrub := by
  by_cases ho : op = 7#4 <;>
    simp [State.accept, State.scrub, ho, SeqState.inFib, SeqState.pLive, State.lowLive,
      SeqState.highLive, SeqState.f2nLive, SeqState.sqlLive]

/-- A commit leaves the FSM IDLE, where no hidden register is in use. -/
theorem commitReg_scrub (rd : RegId) (X : BigNum) :
    (s.scrub.commitReg rd X).scrub = (s.commitReg rd X).scrub := rfl

/-- No read depends on a hidden register. -/
theorem portRead_scrub (a : PortAddr) : s.scrub.portRead a = s.portRead a := rfl

/-! ### The host's side of a cycle -/

theorem writeCmd_scrub (w : Word) : (s.scrub.writeCmd w).scrub = (s.writeCmd w).scrub := by
  unfold State.writeCmd
  cases hb : s.busy
  case true => simp [hb]
  case false => cases decode w <;> simp [hb, State.acceptWord]

theorem writeLimb_scrub (r : RegId) (i : LimbId) (w : Word) :
    (s.scrub.writeLimb r i w).scrub = (s.writeLimb r i w).scrub := by
  unfold State.writeLimb
  cases hb : s.busy
  case true => simp [hb]
  case false => by_cases hw : Config.base ≤ w.toNat <;> simp [hb, hw]

theorem portWrite_scrub (a : PortAddr) (w : Word) :
    (s.scrub.portWrite a w).scrub = (s.portWrite a w).scrub := by
  cases ht : target a with
  | cmd => simpa only [State.portWrite, ht] using writeCmd_scrub s w
  | limb r i => simpa only [State.portWrite, ht] using writeLimb_scrub s r i w
  | kLo => cases hb : s.busy <;> simp [State.portWrite, ht, State.writeKLo, hb]
  | kHi => cases hb : s.busy <;> simp [State.portWrite, ht, State.writeKHi, hb]
  | id | status | reserved => simp [State.portWrite, ht]

theorem busWrite_scrub : s.scrub.busWrite.scrub = s.busWrite.scrub := by
  have hh : s.scrub.host = s.host := rfl
  unfold State.busWrite
  rw [hh]
  split
  · exact portWrite_scrub s _ _
  · exact scrub_scrub s

theorem hostEdge_scrub : s.scrub.hostEdge.scrub = s.hostEdge.scrub :=
  calc s.scrub.hostEdge.scrub
      = (s.scrub.busWrite.scrub.busEnd s.host (s.readNow.map s.portRead)).popEnv := rfl
    _ = (s.busWrite.scrub.busEnd s.host (s.readNow.map s.portRead)).popEnv := by rw [busWrite_scrub]
    _ = s.hostEdge.scrub := rfl

theorem resetEdge_scrub : s.scrub.resetEdge = s.resetEdge := rfl

end

/-! ### The core's side of a cycle -/

/-- A transition reads only registers in use; EXEC is no FIB's, so LOW is not in use at its COMMIT. -/
theorem Inv.fsmStep_scrub {s : State} (h : Inv s) : s.scrub.fsmStep.scrub = s.fsmStep.scrub := by
  cases hs : s.sstate
  case commit => rw [fsmStep_commit hs, fsmStep_commit (s := s.scrub) hs, scrub_scrub]
  case exec =>
    have hb : s.busy = true :=
      Bool.eq_true_of_not_eq_false fun hb => by simp [h.idle.mpr hb] at hs
    have ho : s.opl ≠ 7#4 := (h.kind hb).2 hs
    simp [State.fsmStep, State.scrub, hs, ho, SeqState.inFib, SeqState.pLive, State.lowLive,
      State.fibDone, SeqState.highLive, SeqState.f2nLive, SeqState.sqlLive]
  case fInit =>
    by_cases hk : s.kl = 0#64 <;>
      simp [State.fsmStep, State.scrub, hs, State.seqInit, hk, SeqState.inFib, SeqState.pLive,
        State.lowLive, SeqState.highLive, SeqState.f2nLive, SeqState.sqlLive, State.fibDone]
  case fNext =>
    by_cases hp : s.p = 0#6 <;>
      simp [State.fsmStep, State.scrub, hs, State.seqNext, hp, SeqState.inFib, SeqState.pLive,
        State.lowLive, SeqState.highLive, SeqState.f2nLive, SeqState.sqlLive, State.fibDone]
  all_goals
    simp [State.fsmStep, State.scrub, hs, State.seqSub, seqAdvance_record, SeqState.inFib,
      SeqState.pLive, State.lowLive, SeqState.highLive, SeqState.f2nLive, SeqState.sqlLive]

theorem sstate_eq_of_scrub {s t : State} (h : s.scrub = t.scrub) : s.sstate = t.sstate := by
  rw [← scrub_sstate, h, scrub_sstate]

theorem busy_eq_of_scrub {s t : State} (h : s.scrub = t.scrub) : s.busy = t.busy := by
  rw [← scrub_busy, h, scrub_busy]

/-- The latched command is in use as long as the FSM is not IDLE. -/
theorem scrub_inflight {s : State} (hi : s.sstate ≠ .idle) : s.scrub.inflight = s.inflight := by
  simp [State.inflight, State.scrub, hi]

/-- FIB's result is in use at COMMIT. -/
theorem scrub_low_fibDone {s : State} (hc : s.sstate = .commit) (ho : s.opl = 7#4) :
    s.scrub.low = s.low := by
  simp [State.scrub, State.lowLive, State.fibDone, hc, ho]

theorem runFsm_scrub {s t : State} (hs : Inv s) (ht : Inv t) (h : s.scrub = t.scrub) (n : Nat) :
    (State.runFsm n s).scrub = (State.runFsm n t).scrub := by
  induction n generalizing s t with
  | zero => exact h
  | succ n ih =>
    by_cases hc : s.sstate = .commit
    · rw [runFsm_commit hc, runFsm_commit ((sstate_eq_of_scrub h).symm.trans hc), h]
    · have hc' : t.sstate ≠ .commit := sstate_eq_of_scrub h ▸ hc
      rw [State.runFsm, if_neg hc, State.runFsm, if_neg hc']
      exact ih hs.fsmStep ht.fsmStep (by rw [← hs.fsmStep_scrub, h, ht.fsmStep_scrub])

/-- Where FIB's run ends its result is in use. -/
theorem Inv.scrub_fibResult {s : State} (h : Inv s) (hb : s.busy = true) (ho : s.opl = 7#4) :
    (State.runFsm fsmTransitions s).scrub.low = (State.runFsm fsmTransitions s).low :=
  scrub_low_fibDone (runFsm_all s (h.ne_idle hb)) ((runFsm_frame _ s).opl.trans ho)

theorem execFib_scrub {s t : State} (hs : Inv s) (ht : Inv t) (h : s.scrub = t.scrub)
    (hb : s.busy = true) {rd : RegId} (hi : s.inflight = .ok (.fib rd))
    (hi' : t.inflight = .ok (.fib rd)) :
    ∃ s' t', exec (.fib rd) s = .next s' ∧ exec (.fib rd) t = .next t' ∧ s'.scrub = t'.scrub := by
  have hr := runFsm_scrub hs ht h fsmTransitions
  have hl : (State.runFsm fsmTransitions s).low = (State.runFsm fsmTransitions t).low := by
    rw [← hs.scrub_fibResult hb (inflight_fib hi), hr,
      ht.scrub_fibResult (busy_eq_of_scrub h ▸ hb) (inflight_fib hi')]
  exact ⟨_, _, rfl, rfl, by rw [← commitReg_scrub, hr, hl, commitReg_scrub]⟩

/-- The commands but FIB read no hidden register at their commit. -/
theorem exec_scrub (s : State) {i : Instr} (hi : ∀ rd, i ≠ .fib rd) :
    ∃ t u, exec i s = .next t ∧ exec i s.scrub = .next u ∧ u.scrub = t.scrub := by
  cases i with
  | fib rd => exact absurd rfl (hi rd)
  | _ => exact ⟨_, _, rfl, rfl, rfl⟩

theorem coreEdge_scrub {s t : State} (hs : Inv s) (ht : Inv t) (h : s.scrub = t.scrub)
    (hb : s.busy = true) (move : CoreMove) :
    ∃ s' t', coreEdge move s = .next s' ∧ coreEdge move t = .next t' ∧ s'.scrub = t'.scrub := by
  have hb' : t.busy = true := busy_eq_of_scrub h ▸ hb
  cases move with
  | work n => exact ⟨_, _, rfl, rfl, runFsm_scrub hs ht h n⟩
  | finish =>
    obtain ⟨i, hi⟩ := hs.flight hb
    have hi' : t.inflight = .ok i := by
      rw [← scrub_inflight (ht.ne_idle hb'), ← h, scrub_inflight (hs.ne_idle hb), hi]
    simp only [coreEdge, hi, hi']
    by_cases hf : ∃ rd, i = .fib rd
    · obtain ⟨rd, rfl⟩ := hf
      exact execFib_scrub hs ht h hb hi hi'
    · obtain ⟨s', u, e1, e2, hu⟩ := exec_scrub s (not_exists.mp hf)
      obtain ⟨t', v, e3, e4, hv⟩ := exec_scrub t (not_exists.mp hf)
      have huv : u = v := by
        rw [h, e4] at e2
        exact (Host.Outcome.next.inj e2).symm
      exact ⟨s', t', e1, e3, by rw [← hu, huv, hv]⟩

/-- Settles O56: the host's side and the core's side of a step both respect the registers in use. -/
theorem deadHiddenStateIsUnobservable : Obligations.DeadHiddenStateIsUnobservable := by
  unfold Obligations.DeadHiddenStateIsUnobservable
  intro s t hs ht h
  have hnow : s.now = t.now := by rw [← scrub_now, h, scrub_now]
  have hh : s.hostEdge.scrub = t.hostEdge.scrub := by rw [← hostEdge_scrub, h, hostEdge_scrub]
  refine ⟨fun a => by rw [← portRead_scrub, h, portRead_scrub], ?_⟩
  cases hr : s.now.rst
  case true =>
    refine ⟨_, _, step_reset hr, step_reset (hnow ▸ hr), ?_⟩
    rw [← resetEdge_scrub s, h, resetEdge_scrub]
  case false =>
    have hr' : t.now.rst = false := hnow ▸ hr
    cases hb : s.busy
    case false => exact ⟨_, _, step_idle hr hb, step_idle hr' (busy_eq_of_scrub h ▸ hb), hh⟩
    case true =>
      rw [step_busy hr hb, step_busy hr' (busy_eq_of_scrub h ▸ hb), ← hnow]
      exact coreEdge_scrub hs.hostEdge ht.hostEdge hh ((hostEdge_busy hb).busy.trans hb) _

end Sys2Proof.Machine
end

section
/-! PROOFS. The destination of a command (40_fixedbignumber.md R111 to R116, 41_fast_doubling.md R131). -/

namespace Sys2Proof

/-- The big register a command writes at its commit; CMPEQ and ISZERO write none. -/
def Instr.dest : Instr → Option RegId
  | .add rd _ _ | .sub rd _ _ | .mul rd _ _ | .copy rd _ | .fib rd => some rd
  | .cmpeq _ _ | .iszero _ => none

end Sys2Proof
end

section
/-! PROOFS. What a command leaves unchanged at its commit (10_state.md R22, R36, R37, R40). -/

namespace Sys2Proof.Machine

theorem exec_keeps_err_k {i : Instr} {s t : State} (h : exec i s = .next t) :
    t.err = s.err ∧ t.k = s.k := by
  cases i with
  | fib rd =>
    have f := runFsm_frame fsmTransitions s
    cases h
    exact ⟨f.err, f.k⟩
  | _ => cases h; exact ⟨rfl, rfl⟩

/-- Settles O36: the commits write BUSY and DONE, and only `commitEq` writes EQ. -/
theorem onlyComparesWriteEq : Obligations.OnlyComparesWriteEq := by
  unfold Obligations.OnlyComparesWriteEq
  intro i s t h
  obtain ⟨he, hk⟩ := exec_keeps_err_k h
  obtain ⟨hb, hd, -⟩ := exec_ends h
  refine ⟨he, hk, hb, hd, fun hc hz => ?_⟩
  cases i with
  | cmpeq a b => exact absurd rfl (hc a b)
  | iszero a => exact absurd rfl (hz a)
  | fib rd => cases h; exact (runFsm_frame fsmTransitions s).eq
  | _ => cases h; rfl

theorem reg_commitReg_ne {s : State} {r rd : RegId} (h : r ≠ rd) (X : BigNum) :
    (s.commitReg rd X).reg r = s.reg r := State.reg_setReg_ne s h X

/-- A command changes no big register but its destination. -/
theorem exec_reg_of_ne_dest {i : Instr} {s t : State} (h : exec i s = .next t) {r : RegId}
    (hr : i.dest ≠ some r) : t.reg r = s.reg r := by
  have ne {rd : RegId} (hd : some rd ≠ some r) : r ≠ rd := fun e => hd (e ▸ rfl)
  cases i with
  | cmpeq | iszero => cases h; rfl
  | fib rd =>
    cases h
    have f := runFsm_frame fsmTransitions s
    rw [reg_commitReg_ne (ne hr), State.reg, f.regs, State.reg]
  | _ => cases h; exact reg_commitReg_ne (ne hr) _

/-- A word of the window but STATUS reads as before where K and the register it shows are kept. -/
theorem portRead_congr {s t : State} {a : PortAddr} (ha : a ≠ statusAddr) (hk : t.k = s.k)
    (hl : ∀ r l, a = limbAddr r l → t.reg r = s.reg r) : t.portRead a = s.portRead a := by
  cases ht : target a with
  | status => exact absurd (eq_statusAddr ht) ha
  | limb r l => simp [State.portRead, ht, State.limb, hl r l (eq_limbAddr ht)]
  | kLo => simp [State.portRead, ht, State.kLo, hk]
  | kHi => simp [State.portRead, ht, State.kHi, hk]
  | id | cmd | reserved => simp [State.portRead, ht]

/-- Settles O37: a limb outside RD is one of a register that the command does not write. -/
theorem registerCommandsFrame : Obligations.RegisterCommandsFrame := by
  unfold Obligations.RegisterCommandsFrame
  intro rd rs1 rs2 i s t hi h a ha hl
  have hd : i.dest = some rd := by obtain rfl | rfl | rfl | rfl | rfl := hi <;> rfl
  refine portRead_congr ha (exec_keeps_err_k h).2 fun r l e => exec_reg_of_ne_dest h fun hr => ?_
  obtain rfl : rd = r := Option.some.inj (hd.symm.trans hr)
  exact hl l e

/-- Settles O38: the compares write no big register. -/
theorem compareCommandsFrame : Obligations.CompareCommandsFrame := by
  unfold Obligations.CompareCommandsFrame
  intro rs1 rs2 i s t hi h a ha
  have hd : i.dest = none := by obtain rfl | rfl := hi <;> rfl
  exact portRead_congr ha (exec_keeps_err_k h).2 fun r l _ => exec_reg_of_ne_dest h (by simp [hd])

end Sys2Proof.Machine
end

section
/-! PROOFS. The fields of STATUS, the writes to K and the writes that are not refused (10_state.md R33,
R37, R39; 60_exceptions.md R162). -/

namespace Sys2Proof.Machine

/-- Settles O40: STATUS is a concatenation of its fields, of which each has few values. -/
theorem statusWordLayout : Obligations.StatusWordLayout := by
  unfold Obligations.StatusWordLayout State.statusWord
  intro s
  generalize s.busy = busy, s.done = done, s.eq = eq
  cases s.err <;> revert busy done eq <;> decide

/-- Settles O44: the write to a half of K is the whole effect of its cycle. -/
theorem kWriteStores : Obligations.KWriteStores := by
  unfold Obligations.KWriteStores
  intro s w rest hr hb
  refine ⟨fun h => ⟨_, step_idle hr hb, ?_⟩, fun h => ⟨_, step_idle hr hb, ?_⟩⟩ <;>
    rw [hostEdge_write h]
  · have e : s.portWrite kLoAddr w = s.setKLo w := by simp [State.portWrite, State.writeKLo, hb]
    rw [e]
    exact ⟨kLo_setKLo s w, kHi_setKLo s w, rfl⟩
  · have e : s.portWrite kHiAddr w = s.setKHi w := by simp [State.portWrite, State.writeKHi, hb]
    rw [e]
    exact ⟨kHi_setKHi s w, kLo_setKHi s w, rfl⟩

/-! ### A word of the match and mask table is a command (R73) -/

/-- A row's match and mask, on any field of the word. -/
theorem admits_field {row : OpcodeRow} {w : Word} (h : row.admits w = true) (lo n : Nat) :
    w.extractLsb' lo n &&& row.mask.extractLsb' lo n = row.matchWord.extractLsb' lo n := by
  rw [← BitVec.extractLsb'_and, of_decide_eq_true h]

/-- A field that a row's mask covers has the row's value. -/
theorem admits_field_eq {row : OpcodeRow} {w : Word} (h : row.admits w = true) (lo n : Nat)
    (hm : row.mask.extractLsb' lo n = BitVec.allOnes n) :
    w.extractLsb' lo n = row.matchWord.extractLsb' lo n := by
  simpa [hm] using admits_field h lo n

theorem regField_eq_zero {w : Word} {lo : Nat} (h : w.extractLsb' lo 2 = 0#2) :
    regField w lo = 0 := by
  simp [regField, h]

/-- Every row's mask covers the reserved bits, and its match has them 0 (R72, R73). -/
theorem opcodeRows_reserved : ∀ row ∈ opcodeRows,
    row.mask.extractLsb' 10 22 = BitVec.allOnes 22 ∧ row.matchWord.extractLsb' 10 22 = 0#22 := by
  decide

theorem decode_of_admits {row : OpcodeRow} (hr : row ∈ opcodeRows) {w : Word}
    (h : row.admits w = true) : ∃ i, decode w = .ok i := by
  have field := admits_field_eq h
  have hv : (splitWord w).rsv = 0#22 := by
    obtain ⟨hmask, hmatch⟩ := opcodeRows_reserved row hr
    exact (field 10 22 hmask).trans hmatch
  simp only [opcodeRows, List.mem_cons, List.not_mem_nil, or_false] at hr
  obtain rfl | rfl | rfl | rfl | rfl | rfl | rfl := hr
  · exact ⟨.add (regField w 4) (regField w 6) (regField w 8),
      decode_of_fields hv (field 0 4 rfl) rfl rfl rfl⟩
  · exact ⟨.sub (regField w 4) (regField w 6) (regField w 8),
      decode_of_fields hv (field 0 4 rfl) rfl rfl rfl⟩
  · exact ⟨.mul (regField w 4) (regField w 6) (regField w 8),
      decode_of_fields hv (field 0 4 rfl) rfl rfl rfl⟩
  · exact ⟨.copy (regField w 4) (regField w 6),
      decode_of_fields hv (field 0 4 rfl) rfl rfl (regField_eq_zero (field 8 2 rfl))⟩
  · exact ⟨.cmpeq (regField w 6) (regField w 8),
      decode_of_fields hv (field 0 4 rfl) (regField_eq_zero (field 4 2 rfl)) rfl rfl⟩
  · exact ⟨.iszero (regField w 6), decode_of_fields hv (field 0 4 rfl)
      (regField_eq_zero (field 4 2 rfl)) rfl (regField_eq_zero (field 8 2 rfl))⟩
  · exact ⟨.fib (regField w 4), decode_of_fields hv (field 0 4 rfl) rfl
      (regField_eq_zero (field 6 2 rfl)) (regField_eq_zero (field 8 2 rfl))⟩

/-! ### Writes that are not refused -/

/-- What a write without a cause of refusal is (R162). -/
theorem writeRefusal_eq_none {busy : Bool} {a : PortAddr} {w : Word}
    (h : writeRefusal busy a w = none) :
    addrByte (byteAddr a) = false ∧ (byteAddr a ≠ 0x008 → busy = false) ∧
      (byteAddr a = 0x004 → ∃ row ∈ opcodeRows, row.admits w = true) ∧
      (limbByte (byteAddr a) = true → w.toNat < Config.base) := by
  simp only [writeRefusal] at h
  split at h
  · cases h
  split at h
  · cases h
  split at h
  · cases h
  split at h
  · cases h
  next haddr hbusy hcmd hlimb =>
    refine ⟨by simpa using haddr, fun hb => ?_, fun hb => ?_, fun hl => ?_⟩
    · exact Bool.eq_false_iff.mpr fun e => hbusy ⟨e, hb⟩
    · simpa [hb] using hcmd
    · exact not_le.mp fun hw => hlimb ⟨hl, hw⟩

/-- Settles O46: each write that is not refused takes the branch that stores or accepts. -/
theorem acceptedWriteKeepsErr : Obligations.AcceptedWriteKeepsErr := by
  unfold Obligations.AcceptedWriteKeepsErr
  intro s a w h ha
  obtain ⟨haddr, hidle, hcmd, hlimb⟩ := writeRefusal_eq_none h
  rcases target_cases a with ⟨-, hr⟩ |
    ⟨-, ⟨ht, hb, -⟩ | ⟨ht, -⟩ | ⟨ht, -, hb, -⟩ | ⟨⟨r, i, ht⟩, -, hb, hl⟩⟩
  · exact absurd hr (by simp [haddr])
  · obtain ⟨row, hrow, hw⟩ := hcmd hb
    obtain ⟨i, hd⟩ := decode_of_admits hrow hw
    have hi : s.busy = false := hidle (by simp [hb])
    simp [State.portWrite, ht, State.writeCmd, hi, hd, acceptWord_decoded hd]
  · exact absurd (eq_statusAddr ht) ha
  · have hi : s.busy = false := hidle hb
    obtain ht | ht := ht <;> simp [State.portWrite, ht, State.writeKLo, State.writeKHi, hi]
  · have hi : s.busy = false := hidle hb
    have hw : ¬ Config.base ≤ w.toNat := not_le.mpr (hlimb hl)
    simp [State.portWrite, ht, State.writeLimb, hi, hw, State.setLimb]

end Sys2Proof.Machine
end

section
/-! PROOFS. The words of the window, and reads, limb writes, transactions in the cycle of a commit and
WAIT (20_memory.md R51 to R57, R62; 60_exceptions.md R169; 30_encoding.md R79). -/

namespace Sys2Proof.Machine

/-! ### The words of the window (R52 to R56) -/

@[simp] theorem portRead_statusAddr (s : State) : s.portRead statusAddr = s.statusWord := by
  simp [State.portRead]

@[simp] theorem portRead_limbAddr (s : State) (r : RegId) (i : LimbId) :
    s.portRead (limbAddr r i) = (s.limb r i).setWidth 32 := by
  simp [State.portRead]

/-- The reserved ranges of R52, as the address map sees them. -/
theorem target_reserved {a : PortAddr}
    (h : byteAddr a = 0x00C ∨ (0x018 ≤ byteAddr a ∧ byteAddr a ≤ 0x0FC) ∨ 0x180 ≤ byteAddr a) :
    target a = .reserved := by
  have hwindow : byteAddr a / 0x80 ≠ 2 := by omega
  unfold target
  simp only [if_neg hwindow]
  split_ifs
  case neg => rfl
  all_goals omega

/-- Settles O39: each address is one clause of the address map. -/
theorem portReadMap : Obligations.PortReadMap := by
  unfold Obligations.PortReadMap
  intro s b hlt h4
  refine ⟨?id, ?cmd, ?status, ?kLo, ?kHi, ?limb, fun h => ?reserved⟩
  case limb => rintro r i rfl; exact portRead_limbAddr s r i
  case reserved =>
    have ht : target (portAddr b) = .reserved :=
      target_reserved (by rwa [byteAddr_portAddr b hlt h4])
    simp [State.portRead, ht]
  all_goals rintro rfl; rfl

/-! ### A read (R51, R57) -/

/-- The host's side of a cycle that presents a read. -/
theorem hostEdge_read {s : State} {a : PortAddr} {rest : List HostOp}
    (h : s.host = .read a :: rest) :
    s.hostEdge = { s with
      host := rest, env := s.env.tail, hrdata := some (s.portRead a)
      reads := s.portRead a :: s.reads } := by
  simp [State.hostEdge, State.busWrite, State.readNow, h, State.busEnd, State.popEnv, hostRest]

/-- Settles O42: the host's side is all that happens in an idle machine's cycle. -/
theorem readChangesNothing : Obligations.ReadChangesNothing := by
  unfold Obligations.ReadChangesNothing
  intro s a rest hr hb h
  rw [step_idle hr hb, hostEdge_read h]

/-! ### A limb write (R55) -/

theorem limb_setLimb (s : State) (r q : RegId) (i j : LimbId) (x : Limb) :
    (s.setLimb r i x).limb q j = if q = r ∧ j = i then x else s.limb q j := by
  by_cases hq : q = r
  · subst hq
    simp [State.limb, State.setLimb, Vector.getElem_set, Fin.ext_iff, eq_comm]
  · simp [State.limb, State.setLimb, State.reg_setReg_ne s hq, hq]

/-- A limb write shows at no other word of the window. -/
theorem portRead_setLimb_ne {s : State} {r : RegId} {i : LimbId} {a : PortAddr}
    (h : a ≠ limbAddr r i) (x : Limb) : (s.setLimb r i x).portRead a = s.portRead a := by
  cases ht : target a with
  | limb q j =>
    have hne : ¬ (q = r ∧ j = i) := by
      rintro ⟨rfl, rfl⟩
      exact h (eq_limbAddr ht)
    simp only [State.portRead, ht, limb_setLimb, if_neg hne]
  | id | cmd | reserved => simp only [State.portRead, ht]
  | status | kLo | kHi => simp only [State.portRead, ht]; rfl

/-- A word below BASE fits a limb (R8). -/
theorem setWidth_limb {w : Word} (h : w.toNat < Config.base) :
    (w.setWidth 27).setWidth 32 = w := by
  have hw : w.toNat < 2 ^ 27 := lt_trans h (by decide)
  apply BitVec.eq_of_toNat_eq
  rw [BitVec.toNat_setWidth, BitVec.toNat_setWidth, Nat.mod_eq_of_lt hw, Nat.mod_eq_of_lt w.isLt]

/-- What the window reads as after the cycle of a write is the write's own effect. -/
theorem portRead_hostEdge_write {s : State} {a : PortAddr} {w : Word} {rest : List HostOp}
    (h : s.host = .write a w :: rest) (b : PortAddr) :
    s.hostEdge.portRead b = (s.portWrite a w).portRead b := by
  rw [hostEdge_write h]
  rfl

/-- Settles O43: the write of the limb is the whole effect of its cycle. -/
theorem limbWriteStores : Obligations.LimbWriteStores := by
  unfold Obligations.LimbWriteStores
  intro s r i w rest hr hb hw h
  have hstore : s.portWrite (limbAddr r i) w = s.setLimb r i (w.setWidth 27) := by
    simp [State.portWrite, State.writeLimb, hb, not_le.mpr hw]
  refine ⟨s.hostEdge, step_idle hr hb, ?_, ?_, fun a ha => ?_⟩
  · rw [hostEdge_write h, hstore]
    rfl
  · rw [portRead_hostEdge_write h, hstore, portRead_limbAddr, limb_setLimb, if_pos ⟨rfl, rfl⟩,
      setWidth_limb hw]
  · rw [portRead_hostEdge_write h, hstore, portRead_setLimb_ne ha]

/-! ### The cycle of a commit (R51, R169) -/

/-- The cycle of a commit runs the command in flight beside the host's side (R110, R169). -/
theorem step_finish {s : State} {i : Instr} (hr : s.now.rst = false) (hb : s.busy = true)
    (hc : s.now.core = .finish) (hi : s.inflight = .ok i) : step s = exec i s.hostEdge := by
  rw [step_busy hr hb, hc, coreEdge, (hostEdge_busy hb).inflight, hi]

/-- The host's side of a cycle does not reach the results of the command in flight (R51). -/
theorem exec_hostEdge {i : Instr} {s u : State} (hb : s.busy = true) (h : exec i s = .next u) :
    exec i s.hostEdge = .next (u.withPort s.hostEdge.err s.hostEdge.host s.hostEdge.env
      s.hostEdge.hrdata s.hostEdge.reads) := by
  obtain ⟨e, host, env, data, reads, he⟩ := hostEdge_withPort hb
  rw [he]
  exact exec_port h e host env data reads

/-- A write to CMD, K or a limb while a command is in flight is refused with BUSY (R162). -/
theorem portWrite_busy_raise {s : State} (hb : s.busy = true) {a : PortAddr} (w : Word)
    (ha : a = cmdAddr ∨ a = kLoAddr ∨ a = kHiAddr ∨ ∃ r l, a = limbAddr r l) :
    s.portWrite a w = s.raise .busy := by
  obtain rfl | rfl | rfl | ⟨r, l, rfl⟩ := ha <;>
    simp [State.portWrite, State.writeCmd, State.writeKLo, State.writeKHi, State.writeLimb, hb]

/-- Settles O53: the core's commit runs beside the host's side, which sees BUSY still 1. -/
theorem commitCycleTransactionSeesBusy : Obligations.CommitCycleTransactionSeesBusy := by
  unfold Obligations.CommitCycleTransactionSeesBusy
  intro s i rest hr hb hc hi
  obtain ⟨u, hu⟩ := exec_next i s
  have hexec := exec_hostEdge hb hu
  have hstep := (step_finish hr hb hc hi).trans hexec
  obtain ⟨ub, ud, -⟩ := exec_ends hu
  refine ⟨fun a h => ⟨_, hstep, ?_, ub, ud⟩, fun a w h ha =>
    ⟨_, u, hstep, hu, rfl, rfl, (exec_keeps_err_k hu).2, ?_, ub, ud⟩⟩
  · change s.hostEdge.hrdata = _
    rw [hostEdge_read h]
  · change s.hostEdge.err = _
    rw [hostEdge_write h, portWrite_busy_raise hb w ha]
    exact s.raise_err .busy

/-! ### WAIT (R62, R79, R190) -/

@[simp] theorem statusWord_busy (s : State) : s.statusWord[0] = s.busy := (statusWordLayout s).1

/-- The host's side of a cycle that polls for a WAIT. -/
theorem hostEdge_wait {s : State} {rest : List HostOp} (h : s.host = .wait :: rest) :
    s.hostEdge = { s with
      host := if s.busy then .wait :: rest else rest, env := s.env.tail
      hrdata := some s.statusWord, reads := s.statusWord :: s.reads } := by
  simp [State.hostEdge, State.busWrite, State.readNow, h, State.busEnd, State.popEnv, hostRest]

theorem now_rst_eq_false {s : State} (h : ∀ c ∈ s.env, c.rst = false) : s.now.rst = false := by
  cases he : s.env with
  | nil => simp [State.now, he, quietCycle]
  | cons c cs => simpa [State.now, he] using h c (by simp [he])

theorem steps_succ {n : Nat} {s t : State} (h : step s = .next t) : steps (n + 1) s = steps n t := by
  simp [steps, h]

/-- A WAIT's poll of an idle machine is its last. -/
theorem step_wait_idle {s : State} {rest : List HostOp} (hb : s.busy = false)
    (hw : s.host = .wait :: rest) (hr : s.now.rst = false) :
    ∃ t, step s = .next t ∧ t.host = rest ∧ t.busy = false ∧ t.done = s.done ∧
      t.hrdata = some t.statusWord := by
  refine ⟨_, step_idle hr hb, ?_⟩
  rw [hostEdge_wait hw]
  exact ⟨by simp [hb], hb, rfl, rfl⟩

/-- A WAIT's poll while a command is in flight leaves the WAIT in place, and in its cycle the command
commits or uses up an entry of the environment's list. -/
theorem step_wait_busy {s : State} {rest : List HostOp} (h : Inv s) (hb : s.busy = true)
    (hw : s.host = .wait :: rest) (hr : s.now.rst = false) :
    ∃ t, step s = .next t ∧ t.host = .wait :: rest ∧ t.env = s.env.tail ∧
      (t.busy = false ∧ t.done = true ∨ t.busy = true ∧ s.env ≠ []) := by
  have hhost : s.hostEdge.host = .wait :: rest := by simp [hostEdge_wait hw, hb]
  have b := hostEdge_busy hb
  cases hc : s.now.core with
  | work n =>
    have f := runFsm_frame n s.hostEdge
    have hne : s.env ≠ [] := fun e => by simp [State.now, e, quietCycle] at hc
    have hstep : step s = .next (State.runFsm n s.hostEdge) := by rw [step_busy hr hb, hc, coreEdge]
    exact ⟨_, hstep, f.host.trans hhost, f.env.trans b.env,
      .inr ⟨(f.busy.trans b.busy).trans hb, hne⟩⟩
  | finish =>
    obtain ⟨i, hi⟩ := h.flight hb
    obtain ⟨t, ht⟩ := exec_next i s.hostEdge
    obtain ⟨tb, td, -, thost, tenv⟩ := exec_ends ht
    exact ⟨t, (step_finish hr hb hc hi).trans ht, thost.trans hhost, tenv.trans b.env,
      .inl ⟨tb, td⟩⟩

/-- A WAIT for a command in flight: every poll but the commit's shortens the environment's list. -/
theorem wait_ends_of_busy {s : State} {rest : List HostOp} (h : Inv s) (hb : s.busy = true)
    (hw : s.host = .wait :: rest) (hr : ∀ c ∈ s.env, c.rst = false) :
    ∃ n t, n ≤ s.env.length + 2 ∧ steps n s = .next t ∧ t.host = rest ∧ t.busy = false ∧
      t.done = true ∧ t.hrdata = some t.statusWord := by
  obtain ⟨t, hstep, thost, tenv, hcase⟩ := step_wait_busy h hb hw (now_rst_eq_false hr)
  have hr' : ∀ c ∈ t.env, c.rst = false := fun c hc => hr c (List.mem_of_mem_tail (tenv ▸ hc))
  obtain ⟨tb, td⟩ | ⟨tb, hne⟩ := hcase
  · obtain ⟨u, hu, uhost, ub, ud, udata⟩ :=
      step_wait_idle tb thost (now_rst_eq_false hr')
    exact ⟨2, u, by omega, by rw [steps_succ hstep, steps_succ hu, steps], uhost, ub, ud.trans td,
      udata⟩
  · have hlen : t.env.length + 1 = s.env.length := by
      rw [tenv, List.length_tail, Nat.sub_add_cancel (List.length_pos_iff.mpr hne)]
    obtain ⟨n, u, hn, hu, hend⟩ := wait_ends_of_busy (stepKeepsInv s t h hstep) tb thost hr'
    exact ⟨n + 1, u, by omega, (steps_succ hstep).trans hu, hend⟩
termination_by s.env.length

/-- Settles O55: an idle machine's WAIT takes one poll; with a command in flight, by induction on the
environment's list. -/
theorem waitEndsWithTheCommandCommitted : Obligations.WaitEndsWithTheCommandCommitted := by
  unfold Obligations.WaitEndsWithTheCommandCommitted
  intro s rest h hw hr
  cases hb : s.busy
  case true =>
    obtain ⟨n, t, hn, hsteps, thost, tb, td, tdata⟩ := wait_ends_of_busy h hb hw hr
    exact ⟨n, t, hn, hsteps, thost, tb, fun _ => td, tdata⟩
  case false =>
    obtain ⟨t, hstep, thost, tb, -, tdata⟩ := step_wait_idle hb hw (now_rst_eq_false hr)
    exact ⟨1, t, by omega, by rw [steps_succ hstep, steps], thost, tb, nofun, tdata⟩

end Sys2Proof.Machine
end

section
/-! PROOFS. The encoder and the decoder on the word as a number, and what each makes of the other
(30_encoding.md R71 to R76, R80). -/

namespace Sys2Proof

/-! ### The fields of a word, as numbers (R71) -/

/-- Or with bits that lie above those of `x` is a sum. -/
theorem or_shiftLeft_eq_add {x n : Nat} (a : Nat) (h : x < 2 ^ n) :
    x ||| a <<< n = x + 2 ^ n * a := by
  rw [Nat.or_comm, ← Nat.shiftLeft_add_eq_or_of_lt h, Nat.shiftLeft_eq, Nat.add_comm,
    Nat.mul_comm]

/-- A register number in its place loses no bit of the word. -/
theorem shiftedReg_toNat (r : RegId) {n : Nat} (hn : n ≤ 8) :
    (BitVec.ofNat 32 r.val <<< n).toNat = r.val <<< n := by
  have hr : r.val % 2 ^ 32 = r.val := Nat.mod_eq_of_lt (by omega)
  have hshift : r.val <<< n < 2 ^ 32 := calc
    r.val <<< n = r.val * 2 ^ n := Nat.shiftLeft_eq ..
    _ ≤ 3 * 2 ^ 8 := Nat.mul_le_mul (by omega) (Nat.pow_le_pow_right (by decide) hn)
    _ < 2 ^ 32 := by decide
  rw [BitVec.toNat_shiftLeft, BitVec.toNat_ofNat, hr, Nat.mod_eq_of_lt hshift]

/-- The fields of an assembled word do not overlap, so that its bits are a sum. -/
theorem assembleWord_toNat (op : BitVec 4) (rd rs1 rs2 : RegId) :
    (assembleWord op rd rs1 rs2).toNat =
      op.toNat + 2 ^ 4 * rd.val + 2 ^ 6 * rs1.val + 2 ^ 8 * rs2.val := by
  have hop : (op.setWidth 32).toNat = op.toNat := by
    rw [BitVec.toNat_setWidth, Nat.mod_eq_of_lt (by omega)]
  simp only [assembleWord, BitVec.toNat_or, hop, shiftedReg_toNat _ (n := 4) (by decide),
    shiftedReg_toNat _ (n := 6) (by decide), shiftedReg_toNat _ (n := 8) (by decide)]
  rw [or_shiftLeft_eq_add (n := 4) _ (by omega), or_shiftLeft_eq_add (n := 6) _ (by omega),
    or_shiftLeft_eq_add (n := 8) _ (by omega)]

theorem extractLsb'_toNat_div (w : Word) (lo n : Nat) :
    (w.extractLsb' lo n).toNat = w.toNat / 2 ^ lo % 2 ^ n := by
  rw [BitVec.extractLsb'_toNat, Nat.shiftRight_eq_div_pow]

theorem regField_val (w : Word) (lo : Nat) : (regField w lo).val = w.toNat / 2 ^ lo % 4 := by
  simp [regField, Nat.shiftRight_eq_div_pow]

/-- What the decoder splits off a word is what the encoder put together. -/
@[simp] theorem splitWord_assembleWord (op : BitVec 4) (rd rs1 rs2 : RegId) :
    splitWord (assembleWord op rd rs1 rs2) = ⟨op, rd, rs1, rs2, 0#22⟩ := by
  have hw := assembleWord_toNat op rd rs1 rs2
  simp only [splitWord, CmdFields.mk.injEq]
  refine ⟨BitVec.eq_of_toNat_eq ?_, Fin.ext ?_, Fin.ext ?_, Fin.ext ?_,
    BitVec.eq_of_toNat_eq ?_⟩ <;>
    simp only [extractLsb'_toNat_div, regField_val, hw, BitVec.toNat_ofNat] <;> omega

/-- A word without reserved bits is put together again from its fields. -/
theorem assembleWord_splitWord {w : Word} (h : (splitWord w).rsv = 0#22) :
    assembleWord (splitWord w).op (splitWord w).rd (splitWord w).rs1 (splitWord w).rs2 = w := by
  have hrsv : w.toNat / 2 ^ 10 % 2 ^ 22 = 0 := by
    rw [← extractLsb'_toNat_div]
    exact congrArg BitVec.toNat h
  apply BitVec.eq_of_toNat_eq
  simp only [assembleWord_toNat, splitWord, extractLsb'_toNat_div, regField_val]
  omega

/-! ### The decoder and the encoder are inverse (R71, R72, R75, R76) -/

theorem decode_encode (i : Instr) : decode (encode i) = .ok i := by
  have h : splitWord (encode i) = ⟨i.opcode, i.rdField, i.rs1Field, i.rs2Field, 0#22⟩ :=
    splitWord_assembleWord ..
  apply Machine.decode_of_fields <;> rw [h]

theorem encode_of_decode {w : Word} {i : Instr} (h : decode w = .ok i) : encode i = w := by
  obtain ⟨hrsv, hop, hrd, hrs1, hrs2⟩ := decode_ok h
  rw [encode, ← hop, ← hrd, ← hrs1, ← hrs2, assembleWord_splitWord hrsv]

/-- Settles O1: the decoder splits the word into the fields the encoder joined. -/
theorem decodeOfEncodeIsTheCommand : Obligations.DecodeOfEncodeIsTheCommand :=
  fun i _ => decode_encode i

/-- Settles O2: a decoded word has no bit outside the fields of its command. -/
theorem decodedWordIsTheEncoding : Obligations.DecodedWordIsTheEncoding :=
  fun _ _ => encode_of_decode

/-- Settles O5: the words are computed by the encoder, and the decoder inverts it. -/
theorem workedEncodingsDecode : Obligations.WorkedEncodingsDecode := by
  unfold Obligations.WorkedEncodingsDecode
  intro p hp
  have hword : encode p.1 = p.2 := by revert p; decide
  exact ⟨hword ▸ decode_encode p.1, hword⟩

/-! ### The match and mask table (R73) -/

theorem admits_encode {row : OpcodeRow} (hr : row ∈ opcodeRows) (i : Instr) :
    row.admits (encode i) = true ↔ row = i.row := by
  have hstatement : Laws.MatchMask.Statement i := by
    cases i with
    | add rd rs1 rs2 => exact Laws.MatchMask.add rd rs1 rs2
    | sub rd rs1 rs2 => exact Laws.MatchMask.sub rd rs1 rs2
    | mul rd rs1 rs2 => exact Laws.MatchMask.mul rd rs1 rs2
    | copy rd rs1 => exact Laws.MatchMask.copy rd rs1
    | cmpeq rs1 rs2 => exact Laws.MatchMask.cmpeq rs1 rs2
    | iszero rs1 => exact Laws.MatchMask.iszero rs1
    | fib rd => exact Laws.MatchMask.fib rd
  rw [hstatement row hr, decide_eq_true_iff]

/-- A word that decodes is admitted by the row of its command and by no other. -/
theorem admits_of_decode {row : OpcodeRow} (hr : row ∈ opcodeRows) {w : Word} {i : Instr}
    (h : decode w = .ok i) : row.admits w = true ↔ row = i.row := by
  rw [← encode_of_decode h, admits_encode hr]

/-- Settles O3: an admitted word decodes, and a decoded word is admitted by its command's row
alone. -/
theorem commandExactlyWhenMatchAndMask : Obligations.CommandExactlyWhenMatchAndMask := by
  unfold Obligations.CommandExactlyWhenMatchAndMask
  refine ⟨fun w row hr => ⟨fun h => ?_, ?_⟩, fun w row row' hr hr' h h' => ?_⟩
  · obtain ⟨i, hi⟩ := Machine.decode_of_admits hr h
    exact ⟨i, hi, ((admits_of_decode hr hi).mp h).symm⟩
  · rintro ⟨i, hi, rfl⟩
    exact (admits_of_decode hr hi).mpr rfl
  · obtain ⟨i, hi⟩ := Machine.decode_of_admits hr h
    exact ((admits_of_decode hr hi).mp h).trans ((admits_of_decode hr' hi).mp h').symm

/-! ### The illegal words (R74) -/

theorem opcode_cases {op : BitVec 4} (h : op.toNat < 8) :
    op = 0#4 ∨ op = 1#4 ∨ op = 2#4 ∨ op = 3#4 ∨ op = 4#4 ∨ op = 5#4 ∨ op = 6#4 ∨ op = 7#4 := by
  revert op; decide

/-- A check rejects where its condition fails, or where what comes after it does. -/
theorem error_of_check_iff {p : Prop} [Decidable p] {d : DecodeError}
    {x : Except DecodeError Instr} :
    (∃ e, (if p then x else .error d) = .error e) ↔ ¬p ∨ ∃ e, x = .error e := by
  by_cases h : p <;> simp [h]

theorem decodeFields_error_iff (op : BitVec 4) (rd rs1 rs2 : RegId) :
    (∃ e, decodeFields op rd rs1 rs2 = .error e) ↔
      op = 0#4 ∨ 8 ≤ op.toNat ∨ (op = 4#4 ∧ rs2 ≠ 0) ∨ (op = 5#4 ∧ rd ≠ 0) ∨
        (op = 6#4 ∧ (rd ≠ 0 ∨ rs2 ≠ 0)) ∨ (op = 7#4 ∧ (rs1 ≠ 0 ∨ rs2 ≠ 0)) := by
  obtain h | h := Nat.lt_or_ge op.toNat 8
  · obtain rfl | rfl | rfl | rfl | rfl | rfl | rfl | rfl := opcode_cases h <;>
      simp [decodeFields, error_of_check_iff]
  · have hop : decodeFields op rd rs1 rs2 = .error .illegalOpcode := by
      unfold decodeFields
      split
      case h_8 => rfl
      all_goals omega
    simp [hop, h]

theorem decode_error_iff (w : Word) :
    (∃ e, decode w = .error e) ↔ (splitWord w).rsv ≠ 0#22 ∨
      ∃ e, decodeFields (splitWord w).op (splitWord w).rd (splitWord w).rs1 (splitWord w).rs2 =
        .error e := by
  simp [decode, error_of_check_iff]

theorem regField_eq_zero_iff (w : Word) (lo : Nat) :
    regField w lo = 0 ↔ w.extractLsb' lo 2 = 0#2 := by
  refine ⟨fun h => BitVec.eq_of_toNat_eq ?_, Machine.regField_eq_zero⟩
  rw [extractLsb'_toNat_div]
  exact (regField_val w lo).symm.trans (congrArg Fin.val h)

/-- Settles O4: the decoder's branches that answer an error, read as conditions on the word's
fields. -/
theorem illegalWordsAreTheReservedOnes : Obligations.IllegalWordsAreTheReservedOnes := by
  unfold Obligations.IllegalWordsAreTheReservedOnes
  intro w
  rw [decode_error_iff, decodeFields_error_iff]
  simp only [splitWord, ne_eq, regField_eq_zero_iff]
  tauto

end Sys2Proof
end

section
/-! PROOFS. Writes to CMD of an idle machine, and the host's pseudo-instructions LDR and LDK
(30_encoding.md R74, R76, R79). -/

namespace Sys2Proof.Machine

/-! ### A write in an idle machine's cycle (R51) -/

/-- What a cycle without a read leaves of the port's and the host's side (log 2, log 10). -/
def State.endWrite (s : State) (rest : List HostOp) : State :=
  { s with host := rest, env := s.env.tail, hrdata := none }

/-- The write that an idle machine's cycle presents is all that happens in it. -/
theorem step_write_idle {s u : State} {a : PortAddr} {w : Word} {rest : List HostOp}
    (hr : s.now.rst = false) (hb : s.busy = false) (h : s.host = .write a w :: rest)
    (hu : s.portWrite a w = u) : step s = .next (u.endWrite rest) := by
  rw [step_idle hr hb, hostEdge_write h, hu, State.endWrite]

theorem endWrite_endWrite (s : State) (l rest : List HostOp) :
    (s.endWrite l).endWrite rest =
      { s with host := rest, env := s.env.drop 2, hrdata := none } := by
  simp [State.endWrite, ← List.drop_one]

/-- The coming cycles bring no reset after one of them has passed either. -/
theorem env_tail_rst {s : State} (hr : ∀ c ∈ s.env, c.rst = false) :
    ∀ c ∈ s.env.tail, c.rst = false :=
  fun c hc => hr c (List.mem_of_mem_tail hc)

section
variable {s : State} (hb : s.busy = false)
include hb

theorem portWrite_cmdAddr_ok {w : Word} {i : Instr} (hd : decode w = .ok i) :
    s.portWrite cmdAddr w = s.accept i.opcode i.rdField i.rs1Field i.rs2Field := by
  simp [State.portWrite, State.writeCmd, hb, hd, acceptWord_decoded hd]

theorem portWrite_cmdAddr_error {w : Word} {e : DecodeError} (hd : decode w = .error e) :
    s.portWrite cmdAddr w = s.raise .illegal := by
  simp [State.portWrite, State.writeCmd, hb, hd]

theorem portWrite_kLoAddr (w : Word) : s.portWrite kLoAddr w = s.setKLo w := by
  simp [State.portWrite, State.writeKLo, hb]

theorem portWrite_kHiAddr (w : Word) : s.portWrite kHiAddr w = s.setKHi w := by
  simp [State.portWrite, State.writeKHi, hb]

theorem portWrite_limbAddr (r : RegId) (i : LimbId) {x : Limb} (hx : x.toNat < Config.base) :
    s.portWrite (limbAddr r i) (x.setWidth 32) = s.setLimb r i x := by
  have hw : (x.setWidth 32).toNat = x.toNat := by
    rw [BitVec.toNat_setWidth, Nat.mod_eq_of_lt (by omega)]
  have hlimb : (x.setWidth 32).setWidth 27 = x :=
    BitVec.eq_of_toNat_eq (by rw [BitVec.toNat_setWidth, hw, Nat.mod_eq_of_lt x.isLt])
  simp only [State.portWrite, target_limbAddr, State.writeLimb, hb, hw, not_le.mpr hx, hlimb,
    Bool.false_eq_true, if_false]

end

/-! ### Writes to CMD (R74, R76) -/

/-- Settles O48: the write accepts the command whose fields the word holds. -/
theorem cmdWriteAcceptsTheDecodedCommand : Obligations.CmdWriteAcceptsTheDecodedCommand := by
  unfold Obligations.CmdWriteAcceptsTheDecodedCommand
  intro s w i rest hr hb hd h
  exact ⟨_, step_write_idle hr hb h (portWrite_cmdAddr_ok hb hd), decodeFields_fields i, rfl⟩

/-- Settles O49: the write is refused, which records ILLEGAL and nothing else. -/
theorem illegalCmdWriteStartsNothing : Obligations.IllegalCmdWriteStartsNothing := by
  unfold Obligations.IllegalCmdWriteStartsNothing
  intro s w e rest hr hb hd h
  have hw := (portWrite_cmdAddr_error hb hd).trans (s.raise_record .illegal)
  exact step_write_idle hr hb h hw

/-! ### LDK (R39, R79) -/

/-- The two words that LDK writes are the halves of k. -/
theorem append_halves {k : Nat} (hk : k < 2 ^ 64) :
    BitVec.ofNat 32 (k / 2 ^ 32) ++ BitVec.ofNat 32 k = BitVec.ofNat 64 k := by
  apply BitVec.eq_of_toNat_eq
  rw [BitVec.toNat_append, ← Nat.shiftLeft_add_eq_or_of_lt (BitVec.isLt _), Nat.shiftLeft_eq]
  simp only [BitVec.toNat_ofNat]
  omega

theorem setKHi_setKLo (s : State) (hi lo : Word) :
    (s.setKLo lo).setKHi hi = { s with k := hi ++ lo } := by
  rw [State.setKHi, kLo_setKLo, State.setKLo]

theorem setKHi_endWrite (s : State) (w : Word) (rest : List HostOp) :
    (s.endWrite rest).setKHi w = (s.setKHi w).endWrite rest := rfl

/-- Settles O58: each of the two cycles stores its half of K. -/
theorem ldkLoadsK : Obligations.LdkLoadsK := by
  unfold Obligations.LdkLoadsK
  intro s k rest hb hr hwf h
  have hlo := step_write_idle (now_rst_eq_false hr) hb h (portWrite_kLoAddr hb _)
  have hhi := step_write_idle (s := (s.setKLo (BitVec.ofNat 32 k)).endWrite _) (rest := rest)
    (now_rst_eq_false (env_tail_rst hr)) hb rfl
    (portWrite_kHiAddr (by exact hb) (BitVec.ofNat 32 (k / 2 ^ 32)))
  have hk : k < 2 ^ 64 := by simpa [Stmt.wellFormed] using hwf
  calc steps 2 s
    _ = .next ((((s.setKLo (BitVec.ofNat 32 k)).endWrite _).setKHi _).endWrite rest) :=
      (steps_succ hlo).trans (steps_succ hhi)
    _ = _ := by rw [setKHi_endWrite, setKHi_setKLo, append_halves hk, endWrite_endWrite]

/-! ### LDR (R55, R79) -/

/-- The writes of the listed limbs of `X` to a register; LDR makes those of all limbs. -/
def limbWrites (r : RegId) (X : BigNum) (l : List LimbId) : List HostOp :=
  l.map fun i => .write (limbAddr r i) ((X[i.val]).setWidth 32)

theorem expand_ldr (r : RegId) (v : Nat) :
    (Stmt.ldr r v).expand = limbWrites r (big v) limbIds := rfl

/-- `Y` with the listed limbs of `X` in it. -/
def storeLimbs (X : BigNum) : List LimbId → BigNum → BigNum
  | [], Y => Y
  | i :: l, Y => storeLimbs X l (Y.set i.val X[i.val])

theorem storeLimbs_getElem (X : BigNum) (l : List LimbId) (Y : BigNum) (j : LimbId) :
    (storeLimbs X l Y)[j.val] = if j ∈ l then X[j.val] else Y[j.val] := by
  induction l generalizing Y with
  | nil => rfl
  | cons i l ih =>
    rw [storeLimbs, ih]
    by_cases hij : j = i
    · simp [hij]
    · have hval : i.val ≠ j.val := fun e => hij (Fin.ext e.symm)
      simp [hij, hval]

theorem storeLimbs_limbIds (X Y : BigNum) : storeLimbs X limbIds Y = X :=
  Vector.ext fun j hj => by
    simpa [limbIds] using storeLimbs_getElem X limbIds Y ⟨j, hj⟩

/-- A run of limb writes stores the limbs and changes nothing else of the machine. -/
theorem steps_limbWrites {r : RegId} {X : BigNum} (hX : X.Canon) {rest : List HostOp}
    (l : List LimbId) {s : State} (hb : s.busy = false) (hr : ∀ c ∈ s.env, c.rst = false)
    (h : s.host = limbWrites r X l ++ rest) :
    steps l.length s = .next { s with
      regs := s.regs.set r.val (storeLimbs X l (s.reg r))
      host := rest, env := s.env.drop l.length
      hrdata := if l = [] then s.hrdata else none } := by
  induction l generalizing s with
  | nil =>
    have hhost : s.host = rest := h
    simp [steps, storeLimbs, State.reg, ← hhost]
  | cons i l ih =>
    have hstep := step_write_idle (now_rst_eq_false hr) hb h (portWrite_limbAddr hb r i (hX i))
    have hrun := ih (s := (s.setLimb r i X[i.val]).endWrite (limbWrites r X l ++ rest)) hb
      (env_tail_rst hr) rfl
    refine (steps_succ hstep).trans (hrun.trans ?_)
    simp [State.endWrite, State.setLimb, storeLimbs, State.reg]

/-- Settles O57: LDR is the run of writes of all limbs of big(v), which is canonical
for every v. -/
theorem ldrLoadsTheRegister : Obligations.LdrLoadsTheRegister := by
  unfold Obligations.LdrLoadsTheRegister
  intro s r v rest hb hr _ h
  rw [expand_ldr] at h
  have hrun := steps_limbWrites (big_canon v) limbIds hb hr h
  rwa [storeLimbs_limbIds] at hrun

end Sys2Proof.Machine
end

section
/-! PROOFS. The values of the datapath units on canonical operands, and the laws they obey
(40_fixedbignumber.md R92 to R103, R117). -/

namespace Sys2Proof

/-! ### Big numbers mod M -/

@[simp] theorem big_add_modulus_mul (v b : Nat) : big (v + Config.modulus * b) = big v := by
  rw [← big_mod, Nat.add_mul_mod_self_left, big_mod]

/-! ### ADDU (R92) and MULU (R101) -/

theorem addu_val (X Y : BigNum) : (addu X Y).val = (X.val + Y.val) % Config.modulus := by
  rw [addu, BigNum.val_ofNats (by rw [addChain_length _ (by simp), X.nats_length])
    (addChain_digits _ _ _), addChain_val _ (by simp), X.nats_length, base_pow_eight, Nat.zero_add]
  rfl

theorem mulu_val (X Y : BigNum) : (mulu X Y).val = (X.val * Y.val) % Config.modulus := by
  rw [mulu, BigNum.val_ofNats (by rw [mulRows_length (by simp) (by simp)]; rfl)
    (mulRows_digits _ _ _), mulRows_val (by simp) (by simp), List.length_replicate, base_pow_eight,
    show digitsVal (List.replicate Config.numLimbs 0) = 0 from rfl, Nat.zero_add]
  rfl

theorem addu_eq_big (X Y : BigNum) : addu X Y = big (X.val + Y.val) :=
  (eq_big_of_val (addu_canon X Y) (addu_val X Y)).trans (big_mod _)

theorem mulu_eq_big (X Y : BigNum) : mulu X Y = big (X.val * Y.val) :=
  (eq_big_of_val (mulu_canon X Y) (mulu_val X Y)).trans (big_mod _)

/-- Settles O11: the carry chain drops exactly the multiples of M. -/
theorem adderIsSumModM : Obligations.AdderIsSumModM := by
  unfold Obligations.AdderIsSumModM
  exact fun X Y _ _ => ⟨addu_val X Y, addu_canon X Y, (addu_eq_big X Y).trans (big_mod _).symm⟩

/-- Settles O15: the rows drop exactly the multiples of M. -/
theorem multiplierIsProductModM : Obligations.MultiplierIsProductModM := by
  unfold Obligations.MultiplierIsProductModM
  exact fun X Y _ _ => ⟨mulu_val X Y, mulu_canon X Y, (mulu_eq_big X Y).trans (big_mod _).symm⟩

/-! ### SUBU (R93 to R97) -/

section
variable {X Y : BigNum} (hX : X.Canon) (hY : Y.Canon)
include hX hY

/-- The datapath loses nothing but the borrow it drops, which stands for one M (R94). -/
theorem subuDp_val_add :
    (subuDp X Y).val + Y.val = X.val + Config.modulus * borrowOut 0 X.nats Y.nats := by
  have hx := (BigNum.canon_iff X).mp hX
  have hy := (BigNum.canon_iff Y).mp hY
  have h := subChain_val (Nat.zero_le 1) hx hy (by simp)
  rw [X.nats_length, base_pow_eight, Nat.add_zero] at h
  rw [subuDp, BigNum.val_ofNats (by rw [subChain_length _ (by simp), X.nats_length])
    (subChain_digits (Nat.zero_le 1) hx hy)]
  exact h

/-- The dropped borrow marks an underflow (R94). -/
theorem borrowOut_eq : borrowOut 0 X.nats Y.nats = if X.val < Y.val then 1 else 0 := by
  have h := subuDp_val_add hX hY
  have hb : borrowOut 0 X.nats Y.nats ≤ 1 := borrowOut_le (Nat.zero_le 1)
  have hS := BigNum.val_lt (subuDp_canon hX hY)
  have hXlt := BigNum.val_lt hX
  obtain hb | hb : borrowOut 0 X.nats Y.nats = 0 ∨ borrowOut 0 X.nats Y.nats = 1 := by omega
  · rw [hb, if_neg (by rw [hb] at h; omega)]
  · rw [hb, if_pos (by rw [hb] at h; omega)]

theorem subuDp_val_of_le (h : Y.val ≤ X.val) : (subuDp X Y).val = X.val - Y.val := by
  have hv := subuDp_val_add hX hY
  rw [borrowOut_eq hX hY, if_neg (not_lt.mpr h)] at hv
  omega

theorem subuDp_val_of_lt (h : X.val < Y.val) :
    (subuDp X Y).val = X.val + Config.modulus - Y.val := by
  have hv := subuDp_val_add hX hY
  rw [borrowOut_eq hX hY, if_pos h] at hv
  omega

theorem subuDp_of_le (h : Y.val ≤ X.val) : subuDp X Y = big (X.val - Y.val) :=
  eq_big_of_val (subuDp_canon hX hY) (subuDp_val_of_le hX hY h)

theorem subuDp_of_lt (h : X.val < Y.val) : subuDp X Y = big (X.val + Config.modulus - Y.val) :=
  eq_big_of_val (subuDp_canon hX hY) (subuDp_val_of_lt hX hY h)

end

theorem subu_of_le {X Y : BigNum} (policy : UnderflowPolicy) (n : Nat) (h : Y.val ≤ X.val) :
    subu policy n X Y = (subuDp X Y, n) := by
  simp [subu, underflows, h]

theorem subu_of_lt {X Y : BigNum} (policy : UnderflowPolicy) (n : Nat) (h : X.val < Y.val) :
    subu policy n X Y = subUnderflow policy n X Y := by
  simp [subu, underflows, h]

/-- Under `wrap` the subtractor is its datapath, with an underflow and without one (R97). -/
theorem subu_wrap (n : Nat) (X Y : BigNum) : subu .wrap n X Y = (subuDp X Y, n) :=
  ite_self _

/-- Settles O12: value and borrow are read off the one equation of the borrow chain. -/
theorem subtractorDatapathValue : Obligations.SubtractorDatapathValue := by
  unfold Obligations.SubtractorDatapathValue
  intro X Y hX hY
  exact ⟨subuDp_canon hX hY, subuDp_val_of_le hX hY, subuDp_val_of_lt hX hY,
    by simp [borrowOut_eq hX hY]⟩

/-- Settles O13: without an underflow the datapath's value is the exact difference. -/
theorem subtractionIsExact : Obligations.SubtractionIsExact := by
  unfold Obligations.SubtractionIsExact
  intro policy n X Y hX hY
  refine ⟨fun h => ⟨?_, (subuDp_of_le hX hY h).symm⟩, subu_of_lt policy n⟩
  rw [subu_of_le policy n h, subuDp_of_le hX hY h]

/-- Settles O14: `wrap` hands the datapath's value on, and `draw` a value that is canonical by its form. -/
theorem underflowFollowsThePolicy : Obligations.UnderflowFollowsThePolicy := by
  unfold Obligations.UnderflowFollowsThePolicy
  intro n X Y hX hY h
  exact ⟨by rw [subu_wrap, subuDp_of_lt hX hY h], subu_of_lt .draw n h, drawnBig_canon n⟩

/-! ### The multiplier's accumulator (R98 to R100) -/

/-- One accumulation of digits and a carry below BASE (R100). -/
theorem accumulate_lt {z x y c : Nat} (hz : z < Config.base) (hx : x < Config.base)
    (hy : y < Config.base) (hc : c < Config.base) : z + x * y + c < Config.base ^ 2 := by
  have hxy : x * y ≤ (Config.base - 1) * (Config.base - 1) :=
    Nat.mul_le_mul (Nat.le_sub_one_of_lt hx) (Nat.le_sub_one_of_lt hy)
  simp only [Config.base] at *
  omega

theorem rowAccumulators_length {zs ys : List Nat} (x c : Nat) (h : zs.length ≤ ys.length) :
    (rowAccumulators x c zs ys).length = zs.length := by
  induction zs generalizing ys c with
  | nil => simp [rowAccumulators]
  | cons z zs ih =>
    cases ys with
    | nil => simp at h
    | cons y ys => simp [rowAccumulators, ih _ (by simpa using h)]

theorem rowAccumulators_lt {zs ys : List Nat} {x c : Nat} (hx : x < Config.base)
    (hc : c < Config.base) (hz : Digits zs) (hy : Digits ys) :
    ∀ t ∈ rowAccumulators x c zs ys, t < Config.base ^ 2 := by
  induction zs generalizing ys c with
  | nil => simp [rowAccumulators]
  | cons z zs ih =>
    cases ys with
    | nil => simp [rowAccumulators]
    | cons y ys =>
      have hfirst := accumulate_lt (hz z (by simp)) hx (hy y (by simp)) hc
      have hcarry : (z + x * y + c) / Config.base < Config.base :=
        Nat.div_lt_of_lt_mul (by rwa [← sq])
      exact List.forall_mem_cons.mpr ⟨hfirst, ih hcarry (fun d hd => hz d (by simp [hd]))
        fun d hd => hy d (by simp [hd])⟩

theorem mulRow_tail_length {zs ys : List Nat} (x : Nat) (h : zs.length ≤ ys.length) :
    (mulRow x 0 zs ys).tail.length = zs.length - 1 := by
  rw [List.length_tail, mulRow_length x 0 h]

/-- The rows form one accumulator value for each limb of the triangle below the diagonal (R99). -/
theorem rowsAccumulators_length {xs zs ys : List Nat} (hx : xs.length = zs.length)
    (hy : zs.length ≤ ys.length) :
    2 * (rowsAccumulators ys xs zs).length = zs.length * (zs.length + 1) := by
  induction xs generalizing zs with
  | nil => simp [rowsAccumulators, ← hx]
  | cons x xs ih =>
    have hl := mulRow_tail_length x hy
    have hlen : zs.length = xs.length + 1 := by simpa using hx.symm
    have hrest := ih (zs := (mulRow x 0 zs ys).tail) (by omega) (by omega)
    rw [rowsAccumulators, List.length_append, rowAccumulators_length x 0 hy, Nat.mul_add, hrest, hl,
      hlen, Nat.add_sub_cancel]
    ring

theorem rowsAccumulators_lt {xs zs ys : List Nat} (hx : Digits xs) (hz : Digits zs)
    (hy : Digits ys) : ∀ t ∈ rowsAccumulators ys xs zs, t < Config.base ^ 2 := by
  induction xs generalizing zs with
  | nil => simp [rowsAccumulators]
  | cons x xs ih =>
    have htail : Digits (mulRow x 0 zs ys).tail := fun d hd =>
      mulRow_digits x 0 zs ys d (List.mem_of_mem_tail hd)
    exact List.forall_mem_append.mpr ⟨rowAccumulators_lt (hx x (by simp)) (by decide) hz hy,
      ih (fun d hd => hx d (by simp [hd])) htail⟩

/-- Settles O16: by induction on the rows, each of which keeps digits and carry below BASE. -/
theorem multiplierAccumulatorBound : Obligations.MultiplierAccumulatorBound := by
  unfold Obligations.MultiplierAccumulatorBound
  intro X Y hX hY
  have hlen : 2 * (muluAccumulators X Y).length = 8 * (8 + 1) :=
    rowsAccumulators_length (by simp) (by simp)
  refine ⟨by omega, fun t ht => ?_⟩
  have hlt : t < Config.base ^ 2 := rowsAccumulators_lt ((BigNum.canon_iff X).mp hX)
    (fun d hd => by rw [List.eq_of_mem_replicate hd]; decide) ((BigNum.canon_iff Y).mp hY) t ht
  simp only [Config.base] at *
  omega

/-! ### The comparator (R103) -/

theorem equ_iff_limbs (X Y : BigNum) : equ X Y = true ↔ ∀ i : LimbId, X[i.val] = Y[i.val] := by
  simp [equ]

theorem equ_iff_eq (X Y : BigNum) : equ X Y = true ↔ X = Y := by
  rw [equ_iff_limbs]
  exact ⟨fun h => Vector.ext fun i hi => h ⟨i, hi⟩, fun h i => by rw [h]⟩

theorem equ_eq_decide {X Y : BigNum} (hX : X.Canon) (hY : Y.Canon) :
    equ X Y = decide (X.val = Y.val) := by
  rw [Bool.eq_iff_iff, decide_eq_true_iff, equ_iff_eq]
  exact ⟨congrArg _, BigNum.val_inj hX hY⟩

/-- Settles O17: canonical numbers with one value have the same limbs. -/
theorem comparatorIsEquality : Obligations.ComparatorIsEquality := by
  unfold Obligations.ComparatorIsEquality
  exact fun X Y => ⟨equ_iff_limbs X Y, rfl, fun hX hY => by simp [equ_eq_decide hX hY]⟩

/-! ### The arithmetic laws (R117) -/

theorem addu_big (a b : Nat) : addu (big a) (big b) = big (a + b) := by
  rw [addu_eq_big, val_big, val_big, ← big_mod, ← Nat.add_mod, big_mod]

theorem mulu_big (a b : Nat) : mulu (big a) (big b) = big (a * b) := by
  rw [mulu_eq_big, val_big, val_big, ← big_mod, ← Nat.mul_mod, big_mod]

theorem addu_comm (X Y : BigNum) : addu X Y = addu Y X := by
  rw [addu_eq_big, addu_eq_big, Nat.add_comm]

theorem mulu_comm (X Y : BigNum) : mulu X Y = mulu Y X := by
  rw [mulu_eq_big, mulu_eq_big, Nat.mul_comm]

section
variable {X Y Z : BigNum} (hX : X.Canon)
include hX

theorem addu_zeroBig : addu X zeroBig = X := by
  rw [addu_eq_big, val_zeroBig, Nat.add_zero, big_val hX]

theorem mulu_oneBig : mulu X oneBig = X := by
  rw [mulu_eq_big, val_oneBig, Nat.mul_one, big_val hX]

theorem subu_self (policy : UnderflowPolicy) (n : Nat) : (subu policy n X X).1 = zeroBig := by
  rw [subu_of_le policy n le_rfl, subuDp_of_le hX hX le_rfl, Nat.sub_self, zeroBig]

/-- What the datapath takes away the adder gives back, mod M. -/
theorem addu_subuDp (hY : Y.Canon) : addu (subuDp X Y) Y = X := by
  rw [addu_eq_big, subuDp_val_add hX hY, big_add_modulus_mul, big_val hX]

variable (hY : Y.Canon) (hZ : Z.Canon)
include hY hZ

theorem addu_assoc : addu (addu X Y) Z = addu X (addu Y Z) := by
  rw [← big_val hX, ← big_val hY, ← big_val hZ]
  simp only [addu_big, Nat.add_assoc]

theorem mulu_assoc : mulu (mulu X Y) Z = mulu X (mulu Y Z) := by
  rw [← big_val hX, ← big_val hY, ← big_val hZ]
  simp only [mulu_big, Nat.mul_assoc]

theorem mulu_addu : mulu X (addu Y Z) = addu (mulu X Y) (mulu X Z) := by
  rw [← big_val hX, ← big_val hY, ← big_val hZ]
  simp only [addu_big, mulu_big, Nat.mul_add]

end

theorem mulu_zeroBig (X : BigNum) : mulu X zeroBig = zeroBig := by
  rw [mulu_eq_big, val_zeroBig, Nat.mul_zero, zeroBig]

/-- Settles O18: a canonical number is big of its value, and big carries the laws of the numbers over
to the units. -/
theorem unitsObeyArithmeticLaws : Obligations.UnitsObeyArithmeticLaws := by
  unfold Obligations.UnitsObeyArithmeticLaws
  intro X Y Z hX hY hZ
  refine ⟨addu_comm X Y, addu_assoc hX hY hZ, mulu_comm X Y, mulu_assoc hX hY hZ,
    mulu_addu hX hY hZ, addu_zeroBig hX, mulu_zeroBig X, mulu_oneBig hX, fun policy n h => ?_,
    subu_self hX, fun n => ?_⟩
  · rw [subu_of_le policy n h, addu_subuDp hX hY]
  · rw [subu_wrap, addu_subuDp hX hY]

end Sys2Proof
end

section
/-! PROOFS. What each command but FIB commits (40_fixedbignumber.md R110 to R116). -/

namespace Sys2Proof.Machine

section
variable {rd rs1 rs2 : RegId} {s : State} {X : BigNum}

theorem exec_add (h : addu (s.reg rs1) (s.reg rs2) = X) :
    exec (.add rd rs1 rs2) s = .next (s.commitReg rd X) := by
  rw [← h]; rfl

theorem exec_sub {n : Nat} (h : subu s.policy s.draws (s.reg rs1) (s.reg rs2) = (X, n)) :
    exec (.sub rd rs1 rs2) s = .next { s.commitReg rd X with draws := n } := by
  simp only [exec, execSub, h]

theorem exec_mul (h : mulu (s.reg rs1) (s.reg rs2) = X) :
    exec (.mul rd rs1 rs2) s = .next (s.commitReg rd X) := by
  rw [← h]; rfl

theorem exec_cmpeq {b : Bool} (h : equ (s.reg rs1) (s.reg rs2) = b) :
    exec (.cmpeq rs1 rs2) s = .next (s.commitEq b) := by
  rw [← h]; rfl

theorem exec_iszero {b : Bool} (h : zdet (s.reg rs1) = b) :
    exec (.iszero rs1) s = .next (s.commitEq b) := by
  rw [← h]; rfl

end

/-- Settles O19: the commit writes what the adder answers. -/
theorem addCommitsTheSum : Obligations.AddCommitsTheSum := by
  unfold Obligations.AddCommitsTheSum
  intro rd rs1 rs2 s h
  obtain ⟨-, -, hsum⟩ := adderIsSumModM _ _ (h rs1) (h rs2)
  exact exec_add hsum

/-- Settles O20: the commit writes the exact difference and draws nothing. -/
theorem subCommitsTheDifference : Obligations.SubCommitsTheDifference := by
  unfold Obligations.SubCommitsTheDifference
  intro rd rs1 rs2 s h hle
  obtain ⟨hsub, -⟩ := (subtractionIsExact s.policy s.draws _ _ (h rs1) (h rs2)).1 hle
  exact exec_sub hsub

/-- Settles O21: the commit writes what the policy answers. -/
theorem subUnderflowCommitsThePolicysValue : Obligations.SubUnderflowCommitsThePolicysValue := by
  unfold Obligations.SubUnderflowCommitsThePolicysValue
  intro rd rs1 rs2 s h hlt
  obtain ⟨hwrap, hdraw, hcanon⟩ := underflowFollowsThePolicy s.draws _ _ (h rs1) (h rs2) hlt
  exact ⟨fun hp => exec_sub (hp ▸ hwrap), fun hp => exec_sub (hp ▸ hdraw), hcanon⟩

/-- Settles O22: the commit writes what the multiplier answers. -/
theorem mulCommitsTheProduct : Obligations.MulCommitsTheProduct := by
  unfold Obligations.MulCommitsTheProduct
  intro rd rs1 rs2 s h
  obtain ⟨-, -, hprod⟩ := multiplierIsProductModM _ _ (h rs1) (h rs2)
  exact exec_mul hprod

/-- Settles O23: COPY's commit goes through no unit. -/
theorem copyCommitsTheSource : Obligations.CopyCommitsTheSource := by
  unfold Obligations.CopyCommitsTheSource
  intro rd rs1 s
  rfl

/-- Settles O24: on canonical registers the comparator tells whether the values are equal. -/
theorem cmpeqCommitsEquality : Obligations.CmpeqCommitsEquality := by
  unfold Obligations.CmpeqCommitsEquality
  intro rs1 rs2 s h
  exact exec_cmpeq (equ_eq_decide (h rs1) (h rs2))

/-- Settles O25: the zero detector is the comparator with ZERO. -/
theorem iszeroCommitsZeroTest : Obligations.IszeroCommitsZeroTest := by
  unfold Obligations.IszeroCommitsZeroTest
  intro rs1 s h
  have hz := equ_eq_decide (h rs1) zeroBig_canon
  rw [val_zeroBig] at hz
  exact exec_iszero hz

end Sys2Proof.Machine
end

section
/-! PROOFS. The life of a command from its accept to its commit, under every latency
(40_fixedbignumber.md R110, 70_reset_and_hazards.md R186, R190). -/

namespace Sys2Proof.Machine

/-- Settles O50: the host's side of the cycle leaves the latched command. -/
theorem stepRunsTheLatchedCommand : Obligations.StepRunsTheLatchedCommand := by
  unfold Obligations.StepRunsTheLatchedCommand
  exact fun s i hr hb hc hi => step_finish hr hb hc hi

/-- Settles O10: only a commit could stop, and under the invariant the latched fields are a command. -/
theorem stepNeverStopsUnderInv : Obligations.StepNeverStopsUnderInv := by
  unfold Obligations.StepNeverStopsUnderInv
  intro s h
  cases hr : s.now.rst
  case true => exact ⟨_, step_reset hr⟩
  case false =>
    cases hb : s.busy
    case false => exact ⟨_, step_idle hr hb⟩
    case true =>
      cases hc : s.now.core with
      | work n => exact ⟨_, by rw [step_busy hr hb, hc, coreEdge]⟩
      | finish =>
        obtain ⟨i, hi⟩ := h.flight hb
        rw [step_finish hr hb hc hi]
        exact exec_next i s.hostEdge

/-! ### The results do not depend on the transitions made before the commit -/

/-- From EXEC the FSM can only go to COMMIT (R137). -/
theorem runFsm_exec {s : State} (h : s.sstate = .exec) (n : Nat) :
    State.runFsm n s = s ∨ State.runFsm n s = { s with sstate := .commit } := by
  cases n with
  | zero => exact .inl rfl
  | succ n =>
    right
    rw [State.runFsm, if_neg (by simp [h]), fsmStep_exec h, runFsm_commit rfl]

/-- A command in flight commits the same whatever transitions its FSM has made since the accept: FIB's
run is only cut in two, and EXEC's transition moves the FSM alone, which the commit puts to IDLE. -/
theorem exec_runFsm {i : Instr} {s : State} (h : s.sstate = if i.opcode = 7#4 then .fInit else .exec)
    (n : Nat) : exec i (State.runFsm n s) = exec i s := by
  cases i with
  | fib rd =>
    have hrun := runFsm_absorb n s (by simp [h, Instr.opcode])
    simp only [exec, execFib, hrun]
  | _ =>
    obtain hrun | hrun := runFsm_exec h n
    · rw [hrun]
    · rw [hrun]; rfl

/-! ### The cycles of a flight -/

/-- The state is `a` after some FSM transitions, with any port, host and environment side. -/
def FlightOf (a v : State) : Prop :=
  ∃ n e host env data reads, v = (State.runFsm n a).withPort e host env data reads

section
variable {a v : State} (ha : a.busy = true) (h : FlightOf a v)
include ha h

theorem FlightOf.busy : v.busy = true := by
  obtain ⟨n, e, host, env, data, reads, rfl⟩ := h
  exact (runFsm_frame n a).busy.trans ha

/-- The host's side of a cycle keeps the flight and takes the cycle off the environment's list. -/
theorem FlightOf.hostEdge : ∃ n e host data reads,
    v.hostEdge = (State.runFsm n a).withPort e host v.env.tail data reads := by
  have hb := h.busy ha
  obtain ⟨n, e, host, env, data, reads, rfl⟩ := h
  exact ⟨n, _, _, _, _, hostChangesOnlyErrWhileBusy _ hb⟩

theorem FlightOf.step_work {n : Nat} {later : List EnvCycle}
    (he : v.env = ⟨false, .work n⟩ :: later) :
    ∃ u, step v = .next u ∧ FlightOf a u ∧ u.env = later := by
  have hstep : step v = .next (State.runFsm n v.hostEdge) := by
    rw [step_busy (by simp [State.now, he]) (h.busy ha)]
    simp [State.now, he, coreEdge]
  obtain ⟨m, e, host, data, reads, hv⟩ := h.hostEdge ha
  have hrun : State.runFsm n v.hostEdge =
      (State.runFsm (m + n) a).withPort e host v.env.tail data reads := by
    rw [hv, runFsm_add]
    exact runFsm_port n _ e host _ data reads
  exact ⟨_, hstep, ⟨_, _, _, _, _, _, hrun⟩, by rw [hrun, he]; rfl⟩

theorem FlightOf.step_commit {i : Instr} {u : State} {later : List EnvCycle}
    (hi : a.inflight = .ok i) (hu : ∀ n, exec i (State.runFsm n a) = .next u)
    (he : v.env = ⟨false, .finish⟩ :: later) :
    ∃ e host data reads, step v = .next (u.withPort e host later data reads) := by
  have hvi : v.inflight = .ok i := by
    obtain ⟨n, _, _, _, _, _, rfl⟩ := h
    exact (runFsm_frame n a).inflight.trans hi
  have hstep : step v = exec i v.hostEdge :=
    step_finish (by simp [State.now, he]) (h.busy ha) (by simp [State.now, he]) hvi
  obtain ⟨n, e, host, data, reads, hv⟩ := h.hostEdge ha
  rw [he] at hv
  exact ⟨e, host, data, reads, hstep.trans (hv ▸ exec_port (hu n) e host later data reads)⟩

end

/-- A flight lasts through its working cycles. -/
theorem FlightOf.steps_work {a v : State} (ha : a.busy = true) (h : FlightOf a v) {work : List Nat}
    {later : List EnvCycle} (he : v.env = work.map (fun n => ⟨false, .work n⟩) ++ later) {n : Nat}
    (hn : n ≤ work.length) : ∃ u, steps n v = .next u ∧ FlightOf a u ∧
      u.env = (work.drop n).map (fun n => ⟨false, .work n⟩) ++ later := by
  induction n generalizing v work with
  | zero => exact ⟨v, rfl, h, he⟩
  | succ n ih =>
    cases work with
    | nil => simp at hn
    | cons m work =>
      obtain ⟨u, hstep, hu, hue⟩ := h.step_work ha he
      obtain ⟨t, ht, htf, hte⟩ := ih hu hue (Nat.le_of_succ_le_succ hn)
      exact ⟨t, (steps_succ hstep).trans ht, htf, hte⟩

theorem FlightOf.results_untouched {a v : State} (h : FlightOf a v) :
    v.done = a.done ∧ v.regs = a.regs ∧ v.eq = a.eq := by
  obtain ⟨n, _, _, _, _, _, rfl⟩ := h
  have f := runFsm_frame n a
  exact ⟨f.done, f.regs, f.eq⟩

/-- Settles O54: the accept's cycle starts a flight, which the working cycles keep, and the last cycle
commits what the command would have committed at its accept. -/
theorem commandCommitsAfterItsLatency : Obligations.CommandCommitsAfterItsLatency := by
  unfold Obligations.CommandCommitsAfterItsLatency
  intro s w i work move rest later hb hd hhost henv
  rw [acceptWord_decoded hd]
  set a := s.accept i.opcode i.rdField i.rs1Field i.rs2Field with ha
  obtain ⟨u, hu⟩ := exec_next i a
  have haccept : step s = .next (a.endWrite rest) :=
    step_write_idle (by simp [State.now, henv]) hb hhost (portWrite_cmdAddr_ok hb hd)
  have hflight : FlightOf a (a.endWrite rest) := ⟨0, _, _, _, _, _, rfl⟩
  have hcycles : (a.endWrite rest).env =
      work.map (fun n => ⟨false, .work n⟩) ++ ⟨false, .finish⟩ :: later := by
    simp [State.endWrite, ha, henv, flightCycles]
  refine ⟨fun n h1 hn => ?_, ?_⟩
  · obtain ⟨n, rfl⟩ := Nat.exists_eq_add_of_le' h1
    obtain ⟨v, hv, hvf, -⟩ := hflight.steps_work rfl hcycles (Nat.le_of_succ_le_succ hn)
    obtain ⟨hdone, hregs, heq⟩ := hvf.results_untouched
    exact ⟨v, (steps_succ haccept).trans hv, hvf.busy rfl, hdone, hregs, heq⟩
  · obtain ⟨v, hv, hvf, hve⟩ := hflight.steps_work rfl hcycles le_rfl
    rw [List.drop_length] at hve
    obtain ⟨e, host, data, reads, hfinish⟩ := hvf.step_commit rfl (decodeFields_fields i)
      (fun n => (exec_runFsm rfl n).trans hu) hve
    obtain ⟨ub, ud, us, -, -⟩ := exec_ends hu
    have hsteps : steps (work.length + 2) s = .next (u.withPort e host later data reads) :=
      (steps_succ haccept).trans ((steps_add work.length 1 hv).trans (steps_succ hfinish))
    exact ⟨_, u, hsteps, hu, rfl, rfl, rfl, (exec_keeps_err_k hu).2, ub, ud, us, rfl⟩

end Sys2Proof.Machine
end

section
/-! PROOFS. SEQ_RESULT and the Fibonacci numbers mod M (41_fast_doubling.md R132 to R136, R139 to R144). -/

namespace Sys2Proof

/-! ### The subtractor on big numbers of any value -/

theorem big_congr {a b : Nat} (h : a ≡ b [MOD Config.modulus]) : big a = big b := by
  rw [← big_mod, h, big_mod]

/-- Mod M the datapath is exact even where truncation has made the minuend the smaller one (R94, R139). -/
theorem subuDp_big {a b : Nat} (h : b ≤ a) : subuDp (big a) (big b) = big (a - b) := by
  have hd : (subuDp (big a) (big b)).Canon := subuDp_canon (big_canon a) (big_canon b)
  have hv := subuDp_val_add (big_canon a) (big_canon b)
  rw [val_big, val_big] at hv
  rw [← big_val hd]
  refine big_congr (Nat.ModEq.add_right_cancel' b ?_)
  rw [Nat.sub_add_cancel h]
  simp only [Nat.ModEq, Config.modulus] at hv ⊢
  omega

end Sys2Proof

namespace Sys2Proof.Machine

/-! ### One round (R134, R135) -/

/-- The pair of the loop invariant (R139): `(F(n) mod M, F(n+1) mod M)`. -/
def fibPair (n draws : Nat) : SeqPair := ⟨big (Nat.fib n), big (Nat.fib (n + 1)), draws⟩

/-- The SUBU of the round from `n` has a minuend, 2F(n+1) mod M, below F(n) mod M (R141). -/
def UnderflowsAt (n : Nat) : Prop :=
  2 * Nat.fib (n + 1) % Config.modulus < Nat.fib n % Config.modulus

theorem mulu_fib_two (n : Nat) : mulu (big (Nat.fib n)) twoBig = big (2 * Nat.fib n) := by
  rw [twoBig, mulu_big, Nat.mul_comm]

theorem fibPair_underflows (n draws : Nat) :
    (fibPair n draws).underflows = true ↔ UnderflowsAt n := by
  simp only [SeqPair.underflows, fibPair, mulu_fib_two, Sys2Proof.underflows, val_big,
    decide_eq_true_iff, UnderflowsAt]

theorem fib_le_two_mul (n : Nat) : Nat.fib n ≤ 2 * Nat.fib (n + 1) := by
  have := Nat.fib_le_fib_succ (n := n)
  omega

/-- The round's difference, 2F(n+1) - F(n), where the datapath's value is the policy's too. -/
theorem subu_fib {policy : UnderflowPolicy} {n : Nat} (h : policy = .wrap ∨ ¬ UnderflowsAt n)
    (draws : Nat) :
    subu policy draws (big (2 * Nat.fib (n + 1))) (big (Nat.fib n)) =
      (big (2 * Nat.fib (n + 1) - Nat.fib n), draws) := by
  rw [← subuDp_big (fib_le_two_mul n)]
  obtain rfl | h := h
  · exact subu_wrap draws _ _
  · exact subu_of_le policy draws (by simpa [UnderflowsAt, val_big] using h)

/-- F(2n) = F(n)(2F(n+1) - F(n)). -/
theorem mulu_fib_difference (n : Nat) :
    mulu (big (Nat.fib n)) (big (2 * Nat.fib (n + 1) - Nat.fib n)) = big (Nat.fib (2 * n)) := by
  rw [mulu_big, Nat.fib_two_mul]

/-- F(2n+1) = F(n)² + F(n+1)². -/
theorem addu_fib_squares (n : Nat) :
    addu (mulu (big (Nat.fib n)) (big (Nat.fib n)))
      (mulu (big (Nat.fib (n + 1))) (big (Nat.fib (n + 1)))) = big (Nat.fib (2 * n + 1)) := by
  rw [mulu_big, mulu_big, addu_big, Nat.fib_two_mul_add_one, sq, sq, Nat.add_comm]

/-- F(2n+2) = F(2n+1) + F(2n). -/
theorem addu_fib_succ (n : Nat) :
    addu (big (Nat.fib (n + 1))) (big (Nat.fib n)) = big (Nat.fib (n + 2)) := by
  rw [addu_big, Nat.fib_add_two, Nat.add_comm]

theorem seqRound_fibPair {policy : UnderflowPolicy} {n : Nat}
    (h : policy = .wrap ∨ ¬ UnderflowsAt n) (bit : Bool) (draws : Nat) :
    seqRound policy bit (fibPair n draws) = fibPair (2 * n + bit.toNat) draws := by
  cases bit <;>
    simp [seqRound, fibPair, mulu_fib_two, subu_fib h, mulu_fib_difference, addu_fib_squares,
      addu_fib_succ]

/-- A drawn difference reaches F(2n) and what is made of it, not F(2n+1) (R97, R141). -/
theorem seqRound_draw_underflow {n : Nat} (h : UnderflowsAt n) (draws : Nat) :
    (seqRound .draw false (fibPair n draws)).low = mulu (big (Nat.fib n)) (drawnBig draws) ∧
    (seqRound .draw true (fibPair n draws)).low = big (Nat.fib (2 * n + 1)) ∧
    ∀ bit, (seqRound .draw bit (fibPair n draws)).draws = draws + 1 := by
  have hsub : subu .draw draws (big (2 * Nat.fib (n + 1))) (big (Nat.fib n)) =
      (drawnBig draws, draws + 1) :=
    subu_of_lt .draw draws (by simpa [UnderflowsAt, val_big] using h)
  simp [seqRound, fibPair, mulu_fib_two, hsub, addu_fib_squares]

/-- Settles O31: the two identities of R134, read mod M. -/
theorem roundDoublesTheIndex : Obligations.RoundDoublesTheIndex := by
  unfold Obligations.RoundDoublesTheIndex
  intro policy bit n q hlow hhigh h
  have hq : q = fibPair n q.draws := by
    rw [fibPair, ← big_mod, ← hlow, ← big_mod (Nat.fib (n + 1)), ← hhigh]
  rw [hq, ← Bool.not_eq_true, fibPair_underflows] at h
  rw [hq, seqRound_fibPair h, big_mod, big_mod]
  rfl

/-! ### The loop (R136, R139) -/

/-- Consuming bit `n` doubles the prefix of k above it and appends the bit. -/
theorem prefix_double (k : BitVec 64) (n : Nat) :
    2 * (k.toNat / 2 ^ (n + 1)) + (k.getLsbD n).toNat = k.toNat / 2 ^ n := by
  rw [BitVec.getLsbD, Nat.toNat_testBit, pow_succ, ← Nat.div_div_eq_div_mul, Nat.div_add_mod]

theorem seqRound_prefix {policy : UnderflowPolicy} {k : BitVec 64} {n : Nat}
    (h : policy = .wrap ∨ ¬ UnderflowsAt (k.toNat / 2 ^ (n + 1))) (draws : Nat) :
    seqRound policy (k.getLsbD n) (fibPair (k.toNat / 2 ^ (n + 1)) draws) =
      fibPair (k.toNat / 2 ^ n) draws := by
  rw [seqRound_fibPair h, prefix_double]

/-- The loop invariant (R139): with the prefix of k consumed, the pair stands at that prefix. -/
theorem seqRounds_prefix {policy : UnderflowPolicy} {k : BitVec 64} {n : Nat} (draws : Nat)
    (h : policy = .wrap ∨ ∀ i < n, ¬ UnderflowsAt (k.toNat / 2 ^ (i + 1))) :
    seqRounds policy k n (fibPair (k.toNat / 2 ^ n) draws) = fibPair k.toNat draws := by
  induction n with
  | zero => simp [seqRounds]
  | succ n ih =>
    rw [seqRounds, seqRound_prefix (h.imp_right fun h => h n n.lt_succ_self),
      ih (h.imp_right fun h i hi => h i (hi.trans n.lt_succ_self))]

theorem roundsUnderflow_prefix (k : BitVec 64) (n draws : Nat) :
    roundsUnderflow k n (fibPair (k.toNat / 2 ^ n) draws) = false ↔
      ∀ i < n, ¬ UnderflowsAt (k.toNat / 2 ^ (i + 1)) := by
  induction n with
  | zero => simp [roundsUnderflow]
  | succ n ih =>
    rw [roundsUnderflow, Bool.or_eq_false_iff, ← Bool.not_eq_true, fibPair_underflows,
      seqRound_prefix (.inl rfl), ih, Nat.forall_lt_succ_right, and_comm]

theorem not_underflowsAt_zero : ¬ UnderflowsAt 0 := by simp [UnderflowsAt]

theorem prefix_eq_zero {k : BitVec 64} {n : Nat} (h : topBit k < n) : k.toNat / 2 ^ n = 0 :=
  Nat.div_eq_of_lt (Nat.lt_log2_self.trans_le (Nat.pow_le_pow_right (by decide) h))

/-- Before the first round no bit is consumed. -/
theorem seqStart_eq (k : BitVec 64) (draws : Nat) :
    seqStart draws = fibPair (k.toNat / 2 ^ (topBit k + 1)) draws := by
  rw [prefix_eq_zero (Nat.lt_succ_self _)]
  rfl

theorem fibUnderflows_iff (k : BitVec 64) :
    fibUnderflows k = false ↔ ∀ i, ¬ UnderflowsAt (k.toNat / 2 ^ (i + 1)) := by
  by_cases hk : k = 0#64
  · simp [fibUnderflows, hk, not_underflowsAt_zero]
  · rw [fibUnderflows, if_neg hk, seqStart_eq k, roundsUnderflow_prefix]
    refine ⟨fun h i => ?_, fun h i _ => h i⟩
    by_cases hi : i < topBit k + 1
    · exact h i hi
    · rw [prefix_eq_zero (by omega)]
      exact not_underflowsAt_zero

theorem seqResult_of_ne_zero {k : BitVec 64} (hk : k ≠ 0#64) (policy : UnderflowPolicy)
    (draws : Nat) :
    seqResult policy draws k = ((seqRounds policy k (topBit k + 1) (seqStart draws)).low,
      (seqRounds policy k (topBit k + 1) (seqStart draws)).draws) :=
  if_neg hk

/-- The result (R140). -/
theorem seqResult_eq_fib {policy : UnderflowPolicy} {k : BitVec 64}
    (h : policy = .wrap ∨ fibUnderflows k = false) (draws : Nat) :
    seqResult policy draws k = (big (Nat.fib k.toNat), draws) := by
  by_cases hk : k = 0#64
  · simp [seqResult, hk, zeroBig]
  · rw [fibUnderflows_iff] at h
    rw [seqResult_of_ne_zero hk, seqStart_eq k, seqRounds_prefix draws (h.imp_right fun h i _ => h i)]
    rfl

/-- Settles O32: each of the four runs is a Fibonacci number, and the run for 2k makes the same round. -/
theorem doublingConsistency : Obligations.DoublingConsistency := by
  unfold Obligations.DoublingConsistency
  intro policy draws k h1 hk h
  have h64 : (k + 1).toNat = k.toNat + 1 ∧ (2 * k).toNat = 2 * k.toNat ∧
      (2 * k + 1).toNat = 2 * k.toNat + 1 := by bv_omega
  obtain ⟨hsucc, htwice, htwice1⟩ := h64
  have hround : policy = .wrap ∨ ¬ UnderflowsAt k.toNat := h.imp_right fun ⟨_, _, h, _⟩ => by
    have hlast := (fibUnderflows_iff _).mp h 0
    rwa [zero_add, pow_one, htwice, Nat.mul_div_cancel_left _ two_pos] at hlast
  rw [seqResult_eq_fib (h.imp_right fun ⟨h, _⟩ => h),
    seqResult_eq_fib (h.imp_right fun ⟨_, h, _⟩ => h),
    seqResult_eq_fib (h.imp_right fun ⟨_, _, h, _⟩ => h),
    seqResult_eq_fib (h.imp_right fun ⟨_, _, _, h⟩ => h), hsucc, htwice, htwice1]
  have hpair := fun bit => seqRound_fibPair hround bit draws
  rw [fibPair] at hpair
  simp [hpair, fibPair]

/-! ### Where the range without an underflow ends (R140, R141) -/

/-- Up to 305 the minuend is below M, so nothing is truncated. -/
theorem not_underflowsAt_of_le {n : Nat} (h : n ≤ 305) : ¬ UnderflowsAt n := by
  have hmono : Nat.fib (n + 1) ≤ Nat.fib 306 := Nat.fib_mono (Nat.succ_le_succ h)
  have hfib : 2 * Nat.fib 306 < Config.modulus := by norm_num
  have hlt : 2 * Nat.fib (n + 1) < Config.modulus := by omega
  have hle := fib_le_two_mul n
  rw [UnderflowsAt, Nat.mod_eq_of_lt hlt, Nat.mod_eq_of_lt (hle.trans_lt hlt)]
  exact not_lt.mpr hle

theorem underflowsAt_306 : UnderflowsAt 306 := by norm_num [UnderflowsAt]

/-- Settles O29: the run for k makes its rounds from prefixes of k, of which k / 2 is the largest. -/
theorem underflowStartsAt612 : Obligations.UnderflowStartsAt612 := by
  unfold Obligations.UnderflowStartsAt612
  refine ⟨fun k hk => (fibUnderflows_iff k).mpr fun i => not_underflowsAt_of_le ?_, ?_,
    by norm_num, by norm_num⟩
  · have hle : k.toNat / 2 ^ (i + 1) ≤ k.toNat / 2 := by
      rw [pow_succ', ← Nat.div_div_eq_div_mul]
      exact Nat.div_le_self _ _
    omega
  · rw [← Bool.not_eq_false, fibUnderflows_iff]
    exact fun h => h 0 underflowsAt_306

/-- The last round consumes bit 0; the rounds before it are those of k without that bit. -/
theorem seqRounds_last (policy : UnderflowPolicy) (k : BitVec 64) (n : Nat) (q : SeqPair) :
    seqRounds policy k (n + 1) q =
      seqRound policy (k.getLsbD 0) (seqRounds policy (k >>> 1) n q) := by
  induction n generalizing q with
  | zero => rfl
  | succ n ih =>
    rw [seqRounds, ih, seqRounds, BitVec.getLsbD_ushiftRight, Nat.add_comm 1 n]

/-- The runs for 612 and 613 come to their last round with the pair at 306. -/
theorem seqRounds_306 (draws : Nat) : seqRounds .draw 306 9 (seqStart draws) = fibPair 306 draws :=
  seqRounds_prefix (k := 306) draws
    (.inr fun i _ => (fibUnderflows_iff 306).mp (underflowStartsAt612.1 306 (by decide)) i)

/-- Settles O30: only the last round draws, and with bit 1 its result is not made of the drawn value. -/
theorem drawReachesResultOf612Not613 : Obligations.DrawReachesResultOf612Not613 := by
  unfold Obligations.DrawReachesResultOf612Not613
  intro n
  obtain ⟨heven, hodd, hdraws⟩ := seqRound_draw_underflow underflowsAt_306 n
  have h612 : seqRounds .draw 612 10 (seqStart n) = seqRound .draw false (fibPair 306 n) := by
    rw [seqRounds_last, ← seqRounds_306]; rfl
  have h613 : seqRounds .draw 613 10 (seqStart n) = seqRound .draw true (fibPair 306 n) := by
    rw [seqRounds_last, ← seqRounds_306]; rfl
  have htop : topBit 612 = 9 ∧ topBit 613 = 9 := by decide
  constructor
  · rw [seqResult_of_ne_zero (by decide), htop.1, h612, heven, hdraws, big_mod]
  · rw [seqResult_of_ne_zero (by decide), htop.2, h613, hodd, hdraws, big_mod]

end Sys2Proof.Machine
end

section
/-! PROOFS. The FSM of SEQ computes SEQ_RESULT (41_fast_doubling.md R132 to R138), and what a FIB thereby
commits (R131, R140 to R142). -/

namespace Sys2Proof.Machine

/-! ### Transitions and visits -/

theorem fsmStep_idle {s : State} (h : s.sstate = .idle) : s.fsmStep = s := by
  simp [State.fsmStep, h]

/-- Settles O35: one equation for each state, split where R137 has a condition. -/
theorem fsmTransitions_hold : Obligations.FsmTransitions := by
  unfold Obligations.FsmTransitions
  intro s
  refine ⟨fsmStep_idle, fsmStep_exec, fun h hk => ?_, fun h hk => ?_, fsmStep_fMul2, fsmStep_fSub,
    fsmStep_fMulD, fsmStep_fSqL, fsmStep_fSqH, fsmStep_fAddS, fun h hb => ?_, fun h hb => ?_,
    fun h hp => ?_, fun h hp => ?_, fsmStep_commit⟩
  · exact (fsmStep_fInit h).trans (if_pos hk)
  · exact (fsmStep_fInit h).trans (if_neg hk)
  · exact (fsmStep_fAdv h).trans (if_pos hb)
  · exact (fsmStep_fAdv h).trans (if_neg (by simp [hb]))
  · exact (fsmStep_fNext h).trans (if_pos hp)
  · exact (fsmStep_fNext h).trans (if_neg hp)

theorem runFsm_succ {s : State} (h : s.sstate ≠ .commit) (n : Nat) :
    State.runFsm (n + 1) s = State.runFsm n s.fsmStep := if_neg h

theorem fsmVisits_succ {s : State} (h : s.sstate ≠ .commit) (n : Nat) :
    State.fsmVisits (n + 1) s = s :: State.fsmVisits n s.fsmStep := if_neg h

theorem fsmVisits_commit {s : State} (h : s.sstate = .commit) (n : Nat) :
    State.fsmVisits n s = [] := by
  cases n <;> simp [State.fsmVisits, h]

/-- The visits of a run that is cut in two (compare `runFsm_add`). -/
theorem fsmVisits_add (m n : Nat) (s : State) :
    State.fsmVisits (m + n) s =
      State.fsmVisits m s ++ State.fsmVisits n (State.runFsm m s) := by
  induction m generalizing s with
  | zero => simp [State.fsmVisits, State.runFsm]
  | succ m ih =>
    by_cases h : s.sstate = .commit
    · simp [fsmVisits_commit h, runFsm_commit h]
    · rw [Nat.add_right_comm, fsmVisits_succ h, fsmVisits_succ h, runFsm_succ h, ih, List.cons_append]

/-! ### One round of the FSM is one `seqRound` -/

/-- What `seqRounds` sees of a state: the working pair and the count of drawn values. -/
def State.pair (s : State) : SeqPair := ⟨s.low, s.high, s.draws⟩

/-- The state at F_ADV of the round that `s` begins at F_MUL2 (R134). -/
def State.atAdvance (s : State) : State :=
  let d := subu s.policy s.draws (mulu s.high twoBig) s.low
  { s with
    t1 := mulu s.high twoBig
    t2 := d.1
    draws := d.2
    f2n := mulu s.low d.1
    sql := mulu s.low s.low
    sqh := mulu s.high s.high
    f2n1 := addu (mulu s.low s.low) (mulu s.high s.high)
    sstate := .fAdv }

/-- What a visit says of the units: the state's multiplier and subtractor, and its adder (R138). -/
def State.visit (s : State) : SeqState × Bool := (s.sstate, s.adds)

/-- The visits of one round that consumes `bit` (R137). -/
def roundVisits (bit : Bool) : List (SeqState × Bool) :=
  [(.fMul2, false), (.fSub, false), (.fMulD, false), (.fSqL, false), (.fSqH, false), (.fAddS, true),
    (.fAdv, bit), (.fNext, false)]

/-- A round's last two transitions, from F_ADV (R135, R136). -/
theorem runFsm_fAdv {s : State} (h : s.sstate = .fAdv) :
    State.runFsm 2 s = s.seqAdvance.seqNext ∧ State.fsmVisits 2 s = [s, s.seqAdvance] := by
  have hs : s.sstate ≠ .commit := by simp [h]
  have hnext : s.seqAdvance.sstate = .fNext := by rw [seqAdvance_record]
  have ha : s.seqAdvance.sstate ≠ .commit := by simp [hnext]
  rw [runFsm_succ hs, fsmVisits_succ hs, fsmStep_fAdv h, runFsm_succ ha, fsmVisits_succ ha,
    fsmStep_fNext hnext]
  exact ⟨rfl, rfl⟩

section
variable {s : State} (h : s.sstate = .fMul2)
include h

theorem runFsm_fMul2 : State.runFsm 6 s = s.atAdvance := by
  cases s; cases h; rfl

theorem fsmVisits_fMul2 : (State.fsmVisits 6 s).map State.visit = (roundVisits false).take 6 := by
  cases s; cases h; rfl

/-- A round's 8 transitions: the pair takes one `seqRound`, and P goes down to 0 and then to COMMIT. -/
theorem runFsm_round :
    (State.runFsm 8 s).pair = seqRound s.policy (s.kl.getLsbD s.p.toNat) s.pair ∧
    (State.runFsm 8 s).p = (if s.p = 0#6 then s.p else s.p - 1#6) ∧
    (State.runFsm 8 s).sstate = if s.p = 0#6 then .commit else .fMul2 := by
  rw [runFsm_add 6 2, runFsm_fMul2 h, (runFsm_fAdv rfl).1, seqNext_record, seqAdvance_record]
  refine ⟨?_, rfl, rfl⟩
  cases hb : s.kl.getLsbD s.p.toNat <;> simp [State.pair, seqRound, State.atAdvance, hb]

theorem fsmVisits_round :
    (State.fsmVisits 8 s).map State.visit = roundVisits (s.kl.getLsbD s.p.toNat) := by
  rw [fsmVisits_add 6 2, List.map_append, fsmVisits_fMul2 h, runFsm_fMul2 h, (runFsm_fAdv rfl).2,
    seqAdvance_record]
  simp [State.visit, State.adds, State.atAdvance, roundVisits]

end

/-! ### The loop of rounds (R136) -/

/-- The visits of the rounds that consume the `n` lowest bits of k, the highest of them first. -/
def roundsVisits (k : BitVec 64) : Nat → List (SeqState × Bool)
  | 0 => []
  | n + 1 => roundVisits (k.getLsbD n) ++ roundsVisits k n

/-- From F_MUL2 with P = n the FSM makes n + 1 rounds and is at COMMIT. -/
theorem runFsm_rounds {s : State} {n : Nat} (h : s.sstate = .fMul2) (hp : s.p.toNat = n) :
    (State.runFsm (8 * (n + 1)) s).sstate = .commit ∧
    (State.runFsm (8 * (n + 1)) s).pair = seqRounds s.policy s.kl (n + 1) s.pair ∧
    (State.fsmVisits (8 * (n + 1)) s).map State.visit = roundsVisits s.kl (n + 1) := by
  induction n generalizing s with
  | zero =>
    have hp0 : s.p = 0#6 := BitVec.eq_of_toNat_eq hp
    obtain ⟨hpair, -, hstate⟩ := runFsm_round h
    have hvisits := fsmVisits_round h
    rw [hp] at hpair hvisits
    rw [if_pos hp0] at hstate
    exact ⟨hstate, hpair, by rw [hvisits, roundsVisits, roundsVisits, List.append_nil]⟩
  | succ n ih =>
    have hp0 : s.p ≠ 0#6 := by bv_omega
    obtain ⟨hpair, hp', hstate⟩ := runFsm_round h
    have f := runFsm_frame 8 s
    rw [if_neg hp0] at hp' hstate
    obtain ⟨hcommit, hrest, hrestVisits⟩ := ih hstate (by rw [hp']; bv_omega)
    rw [Nat.mul_succ, Nat.add_comm, runFsm_add, fsmVisits_add, List.map_append, fsmVisits_round h,
      hrestVisits, hrest, hpair, f.policy, f.kl, hp]
    exact ⟨hcommit, rfl, rfl⟩

/-! ### FIB's run (R132, R133) -/

/-- A run that has reached COMMIT is FIB's whole run. -/
theorem runFsm_all_eq {s : State} {n : Nat} (hi : s.sstate ≠ .idle)
    (hc : (State.runFsm n s).sstate = .commit) :
    State.runFsm fsmTransitions s = State.runFsm n s ∧
    State.fsmVisits fsmTransitions s = State.fsmVisits n s := by
  constructor
  · rw [← runFsm_absorb n s hi, runFsm_commit hc]
  · have hn := fsmVisits_add n fsmTransitions s
    have hall := fsmVisits_add fsmTransitions n s
    rw [fsmVisits_commit hc, List.append_nil] at hn
    rw [fsmVisits_commit (runFsm_all s hi), List.append_nil, Nat.add_comm] at hall
    exact hall.symm.trans hn

section
variable {s : State} (h : s.sstate = .fInit)
include h

/-- F_INIT for k not 0 (R133). -/
theorem fsmStep_start (hk : s.kl ≠ 0#64) :
    s.fsmStep.sstate = .fMul2 ∧ s.fsmStep.p.toNat = topBit s.kl ∧
    s.fsmStep.pair = seqStart s.draws := by
  rw [fsmStep_fInit h, State.seqInit, if_neg hk]
  refine ⟨rfl, ?_, rfl⟩
  rw [BitVec.toNat_ofNat, Nat.mod_eq_of_lt (topBit_lt s.kl)]

/-- The run for k not 0: F_INIT, and a round for each bit from the highest set one down. -/
theorem runFsm_fInit (hk : s.kl ≠ 0#64) :
    (State.runFsm fsmTransitions s).pair =
      seqRounds s.policy s.kl (topBit s.kl + 1) (seqStart s.draws) ∧
    (State.fsmVisits fsmTransitions s).map State.visit =
      (.fInit, false) :: roundsVisits s.kl (topBit s.kl + 1) := by
  obtain ⟨hstate, hp, hpair⟩ := fsmStep_start h hk
  obtain ⟨hcommit, hrounds, hvisits⟩ := runFsm_rounds hstate hp
  have hs : s.sstate ≠ .commit := by simp [h]
  have f := fsmStep_frame s
  rw [← runFsm_succ hs] at hcommit hrounds
  obtain ⟨hrun, hseen⟩ := runFsm_all_eq (by simp [h]) hcommit
  rw [hrun, hrounds, hseen, fsmVisits_succ hs, List.map_cons, hvisits, hpair, f.policy, f.kl]
  exact ⟨rfl, by simp [State.visit, State.adds, h]⟩

/-- The FSM's run ends with SEQ_RESULT in LOW. -/
theorem runFsm_seqResult :
    ((State.runFsm fsmTransitions s).low, (State.runFsm fsmTransitions s).draws) =
      seqResult s.policy s.draws s.kl := by
  by_cases hk : s.kl = 0#64
  · have hstep : s.fsmStep = { s with low := zeroBig, sstate := .commit } :=
      (fsmStep_fInit h).trans (if_pos hk)
    have hrun : State.runFsm 1 s = s.fsmStep := runFsm_succ (by simp [h]) 0
    have hcommit : (State.runFsm 1 s).sstate = .commit := by rw [hrun, hstep]
    obtain ⟨hall, -⟩ := runFsm_all_eq (by simp [h]) hcommit
    rw [hall, hrun, hstep, seqResult, if_pos hk]
  · obtain ⟨hpair, -⟩ := runFsm_fInit h hk
    rw [seqResult_of_ne_zero hk, ← hpair]
    rfl

end

/-! ### What a FIB commits (R131, R140 to R142) -/

/-- Settles O26: the FSM's frame, and the commit of its result. -/
theorem fibCommitsSeqResult : Obligations.FibCommitsSeqResult := by
  unfold Obligations.FibCommitsSeqResult
  intro rd s h
  have f := runFsm_frame fsmTransitions s
  have hresult := runFsm_seqResult h
  refine ⟨_, rfl, ?_, congrArg Prod.snd hresult, fun q hq => ?_, rfl, rfl, rfl, f.eq, f.err, f.k,
    f.kl, f.opl, f.rdl, f.rs1l, f.rs2l, f.hrdata, f.policy, f.host, f.env, f.reads⟩
  · exact (State.reg_setReg_self _ rd _).trans (congrArg Prod.fst hresult)
  · rw [reg_commitReg_ne hq, State.reg, State.reg, f.regs]

/-- Settles O27: SEQ_RESULT is the Fibonacci number mod M under the condition of R140. -/
theorem fibGivesFibonacciModM : Obligations.FibGivesFibonacciModM := by
  unfold Obligations.FibGivesFibonacciModM
  intro rd s h hk
  obtain ⟨t, ht, hreg, hdraws, -⟩ := fibCommitsSeqResult rd s h
  rw [seqResult_eq_fib hk] at hreg hdraws
  exact ⟨t, ht, hreg.trans (big_mod _).symm, hdraws⟩

/-- Settles O28: no run up to 611 underflows, and no F(k) up to F(307) is truncated. -/
theorem fibIsExactInTheSupportedRange : Obligations.FibIsExactInTheSupportedRange := by
  unfold Obligations.FibIsExactInTheSupportedRange
  intro rd s h hk
  obtain ⟨hsafe, -, hfits, -⟩ := underflowStartsAt612
  obtain ⟨t, ht, hreg, hdraws⟩ := fibGivesFibonacciModM rd s h (.inr (hsafe s.kl hk))
  refine ⟨t, ht, hreg, hdraws, fun hexact => ?_⟩
  rw [hreg, val_big, Nat.mod_mod]
  exact Nat.mod_eq_of_lt ((Nat.fib_mono hexact).trans_lt hfits)

/-- Settles O33: SEQ_RESULT takes nothing of the state but KL, the policy and the count of draws. -/
theorem fibDependsOnKAlone : Obligations.FibDependsOnKAlone := by
  unfold Obligations.FibDependsOnKAlone
  intro rd rd' s s' h h' hk hp hd
  obtain ⟨t, ht, hreg, hdraws, -⟩ := fibCommitsSeqResult rd s h
  obtain ⟨t', ht', hreg', hdraws', -⟩ := fibCommitsSeqResult rd' s' h'
  rw [hk, hp, hd] at hreg hdraws
  exact ⟨t, t', ht, ht', hreg.trans hreg'.symm, hdraws.trans hdraws'.symm⟩

/-! ### Operation counts (R138) -/

/-- What each round has `c` times, and once more for a bit 1 where `d` is 1, counted over the rounds. -/
theorem countP_roundsVisits {f : SeqState × Bool → Bool} {c d : Nat}
    (hround : ∀ bit, (roundVisits bit).countP f = c + d * bit.toNat) (k : BitVec 64) (n : Nat) :
    (roundsVisits k n).countP f = c * n + d * (List.range n).countP fun j => k.getLsbD j := by
  induction n with
  | zero => simp [roundsVisits]
  | succ n ih =>
    rw [roundsVisits, List.countP_append, hround, ih, List.range_succ, List.countP_append]
    cases hb : k.getLsbD n <;> simp [hb] <;> ring

/-- No bit above the highest set one counts. -/
theorem popCount_eq (k : BitVec 64) :
    popCount k = (List.range (topBit k + 1)).countP fun j => k.getLsbD j := by
  have htop := topBit_lt k
  have hsplit : List.range 64 = List.range ((topBit k + 1) + (63 - topBit k)) :=
    congrArg _ (by omega)
  have hhigh : ∀ i, k.getLsbD (topBit k + 1 + i) = false := fun i => by
    refine Nat.testBit_lt_two_pow (Nat.lt_log2_self.trans_le ?_)
    exact Nat.pow_le_pow_right (by decide) (Nat.le_add_right _ _)
  rw [popCount, hsplit, List.range_add, List.countP_append, List.countP_map]
  simp [Function.comp_def, hhigh]

/-- Counting what a visit tells of the units over FIB's run. -/
theorem countP_fsmVisits {s : State} (h : s.sstate = .fInit) (hk : s.kl ≠ 0#64)
    {f : SeqState × Bool → Bool} {c d : Nat} (hinit : f (.fInit, false) = false)
    (hround : ∀ bit, (roundVisits bit).countP f = c + d * bit.toNat) :
    ((State.fsmVisits fsmTransitions s).countP fun u => f u.visit) =
      c * (topBit s.kl + 1) + d * popCount s.kl := by
  obtain ⟨-, hvisits⟩ := runFsm_fInit h hk
  calc ((State.fsmVisits fsmTransitions s).countP fun u => f u.visit)
      = ((State.fsmVisits fsmTransitions s).map State.visit).countP f := List.countP_map.symm
    _ = (roundsVisits s.kl (topBit s.kl + 1)).countP f := by
      rw [hvisits, List.countP_cons_of_neg (by simp [hinit])]
    _ = c * (topBit s.kl + 1) + d * popCount s.kl := by
      rw [countP_roundsVisits hround, popCount_eq]

/-- Settles O34: the counts of one round, over the rounds of the run. -/
theorem fibOperationCounts : Obligations.FibOperationCounts := by
  unfold Obligations.FibOperationCounts
  intro s h hk
  have hmul := countP_fsmVisits h hk (f := fun v => v.1.multiplies) (c := 4) (d := 0) rfl (by decide)
  have hsub := countP_fsmVisits h hk (f := fun v => v.1 = .fSub) (c := 1) (d := 0) rfl (by decide)
  have hadd := countP_fsmVisits h hk (f := fun v => v.2) (c := 1) (d := 1) rfl (by decide)
  simp only [Nat.zero_mul, Nat.add_zero, Nat.one_mul] at hmul hsub hadd
  exact ⟨hmul, hsub, hadd, runFsm_all s (by simp [h])⟩

end Sys2Proof.Machine
end

section
/-! PROOFS. The writes that are refused, each with its one code, and the writes that clear the code
(60_exceptions.md R162 to R165). -/

namespace Sys2Proof.Machine

/-! ### The causes of refusal as the machine sees them (R162, R164) -/

theorem byteAddr_injective {a b : PortAddr} (h : byteAddr a = byteAddr b) : a = b :=
  BitVec.eq_of_toNat_eq (Nat.eq_of_mul_eq_mul_left (by decide) h)

/-- The limb range of R52 holds limbs only. -/
theorem eq_limbAddr_of_limbByte {a : PortAddr} (h : limbByte (byteAddr a) = true) :
    ∃ r i, a = limbAddr r i := by
  have hn : addrByte (byteAddr a) = false := by
    simp only [limbByte, addrByte, decide_eq_true_eq, decide_eq_false_iff_not] at h ⊢
    omega
  rcases target_cases a with ⟨-, ha⟩ |
    ⟨-, ⟨-, -, hl⟩ | ⟨-, -, hl⟩ | ⟨-, -, -, hl⟩ | ⟨⟨r, i, ht⟩, -⟩⟩
  case inr.inr.inr.inr => exact ⟨r, i, eq_limbAddr ht⟩
  case inl => simp [hn] at ha
  all_goals simp [h] at hl

theorem row_mem_opcodeRows (i : Instr) : i.row ∈ opcodeRows := by
  cases i <;> simp [Instr.row, opcodeRows]

/-- A word that no row of the match and mask table admits is illegal (R73, R74). -/
theorem decode_error_of_not_admits {w : Word}
    (h : (opcodeRows.all fun row => !row.admits w) = true) : ∃ e, decode w = .error e := by
  cases hd : decode w with
  | error e => exact ⟨e, rfl⟩
  | ok i =>
    have hrow : i.row.admits w = true := (admits_of_decode (row_mem_opcodeRows i) hd).mpr rfl
    have hno := List.all_eq_true.mp h _ (row_mem_opcodeRows i)
    simp [hrow] at hno

/-- The cause behind each code of a refusal; ILLEGAL and RANGE are left to an idle machine (R164). -/
theorem writeRefusal_eq_some {busy : Bool} {a : PortAddr} {w : Word} {c : ErrCode}
    (h : writeRefusal busy a w = some c) :
    (c = .addr ∧ addrByte (byteAddr a) = true) ∨
    (c = .busy ∧ addrByte (byteAddr a) = false ∧ busy = true ∧ a ≠ statusAddr) ∨
    (c = .illegal ∧ busy = false ∧ a = cmdAddr ∧ ∃ e, decode w = .error e) ∨
    (c = .range ∧ busy = false ∧ (∃ r i, a = limbAddr r i) ∧ Config.base ≤ w.toNat) := by
  simp only [writeRefusal] at h
  split_ifs at h with haddr hbusy hcmd hlimb <;> obtain rfl := Option.some.inj h
  · exact .inl ⟨rfl, haddr⟩
  · obtain ⟨hb, hne⟩ := hbusy
    have hs : a ≠ statusAddr := by rintro rfl; exact hne rfl
    exact .inr (.inl ⟨rfl, by simpa using haddr, hb, hs⟩)
  · obtain ⟨hb, hw⟩ := hcmd
    have hidle : busy = false := by simpa [hb] using hbusy
    exact .inr (.inr (.inl
      ⟨rfl, hidle, byteAddr_injective (b := cmdAddr) hb, decode_error_of_not_admits hw⟩))
  · obtain ⟨hl, hw⟩ := hlimb
    have hne : byteAddr a ≠ 0x008 := fun hb => by simp [hb, limbByte] at hl
    have hidle : busy = false := by simpa [hne] using hbusy
    exact .inr (.inr (.inr ⟨rfl, hidle, eq_limbAddr_of_limbByte hl, hw⟩))

/-! ### What a refused write does (R163, R164) -/

theorem portWrite_addrByte {a : PortAddr} (h : addrByte (byteAddr a) = true) (s : State)
    (w : Word) : s.portWrite a w = s.raise .addr := by
  rcases target_cases a with ⟨ht | ht, -⟩ | ⟨hn, -⟩
  · simp [State.portWrite, ht]
  · simp [State.portWrite, ht]
  · simp [hn] at h

theorem portWrite_limbAddr_range {s : State} (hb : s.busy = false) (r : RegId) (i : LimbId)
    {w : Word} (hw : Config.base ≤ w.toNat) : s.portWrite (limbAddr r i) w = s.raise .range := by
  simp [State.portWrite, State.writeLimb, hb, hw]

/-- The whole effect of a refused write is to report its code. -/
theorem portWrite_refused {s : State} {a : PortAddr} {w : Word} {c : ErrCode}
    (h : writeRefusal s.busy a w = some c) : s.portWrite a w = s.raise c := by
  obtain ⟨rfl, ha⟩ | ⟨rfl, ha, hb, hs⟩ | ⟨rfl, hb, rfl, e, hd⟩ | ⟨rfl, hb, ⟨r, i, rfl⟩, hw⟩ :=
    writeRefusal_eq_some h
  · exact portWrite_addrByte ha s w
  · simp [portWrite_busy hb, hs, ha]
  · exact portWrite_cmdAddr_error hb hd
  · exact portWrite_limbAddr_range hb r i hw

/-- Settles O45: a refused write is a `raise` of its code, and it is all that happens in an idle
machine's cycle. -/
theorem refusedWriteRecordsItsCode : Obligations.RefusedWriteRecordsItsCode := by
  unfold Obligations.RefusedWriteRecordsItsCode
  have hwrite : ∀ (s : State) (a : PortAddr) (w : Word) (c : ErrCode),
      writeRefusal s.busy a w = some c →
      s.portWrite a w = { s with err := if s.err = .none then c else s.err } :=
    fun s _ _ c h => (portWrite_refused h).trans (s.raise_record c)
  refine ⟨hwrite, fun s a w c rest hr hb hh h => ?_⟩
  rw [← hb] at h
  exact ⟨_, step_write_idle hr hb hh (hwrite s a w c h), rfl⟩

/-! ### What clears ERR (R165) -/

theorem portWrite_statusAddr (s : State) (w : Word) : s.portWrite statusAddr w = s.clearErr := by
  simp [State.portWrite]

/-- Settles O47: the write is `clearErr`, and it is all that happens in an idle machine's cycle; a
reset edge gives ERR its reset value. -/
theorem statusWriteClearsErr : Obligations.StatusWriteClearsErr := by
  unfold Obligations.StatusWriteClearsErr
  refine ⟨portWrite_statusAddr, fun s w rest hr hb h => ?_, fun s hr => ⟨_, step_reset hr, rfl⟩⟩
  exact ⟨_, step_write_idle hr hb h (portWrite_statusAddr s w), rfl⟩

end Sys2Proof.Machine
end

section
/-! PROOFS. The reset values, and the edge that gives them to every register the spec resets
(70_reset_and_hazards.md R180 to R182). -/

namespace Sys2Proof.Machine

/-! ### What the reset state holds (R181) -/

@[simp] theorem zeroBig_getElem (i : LimbId) : zeroBig[i.val] = 0#27 := by
  simp [zeroBig, big]

@[simp] theorem reset_reg (r : RegId) : State.reset.reg r = zeroBig := by
  simp [State.reg, State.reset]

theorem portRead_reset_limbAddr (r : RegId) (i : LimbId) :
    State.reset.portRead (limbAddr r i) = 0 := by
  simp [State.limb]

theorem statusWord_reset : State.reset.statusWord = 0 := rfl

/-- Settles O6: registers and limbs are those of ZERO; the other values are the reset state's fields. -/
theorem resetHoldsTheSpecsValues : Obligations.ResetHoldsTheSpecsValues := by
  unfold Obligations.ResetHoldsTheSpecsValues
  have hid : State.reset.portRead (portAddr 0x000) = 0x01040808 :=
    (portReadMap State.reset 0x000 (by decide) (by decide)).1 rfl
  have hstatus : State.reset.portRead statusAddr = 0 :=
    (portRead_statusAddr _).trans statusWord_reset
  exact ⟨reset_reg, portRead_reset_limbAddr, hid, rfl, rfl, rfl, rfl, hstatus, rfl, rfl, rfl, rfl⟩

/-! ### A reset edge (R180, R182) -/

@[simp] theorem resetEdge_reg (s : State) (r : RegId) : s.resetEdge.reg r = zeroBig :=
  reset_reg r

/-- A read in a cycle with `rst` high returns 0; without one `hrdata` holds nothing (log 10). -/
theorem resetEdge_hrdata (s : State) : s.resetEdge.hrdata = s.readNow.map fun _ => 0 := rfl

/-- Settles O7: whatever is in flight, the step is the reset edge, which takes every field the spec
resets from the reset state. -/
theorem resetEdgeLeavesResetValues : Obligations.ResetEdgeLeavesResetValues := by
  unfold Obligations.ResetEdgeLeavesResetValues
  intro s hr
  refine ⟨s.resetEdge, step_reset hr, resetEdge_reg s, rfl, rfl, rfl, rfl, rfl, rfl,
    fun hread => ?_, fun hnone => ?_⟩
  · obtain ⟨a, ha⟩ := Option.isSome_iff_exists.mp hread
    rw [resetEdge_hrdata, ha, Option.map_some]
  · rw [resetEdge_hrdata, hnone, Option.map_none]

end Sys2Proof.Machine
end
